-- ==== Sys2Proof/Word.lean ====
section
/-! DEFINITION. The widths of TMFC's values (00_scope.md R8, R10): bytes, 16-bit checksums and addresses, 32-bit
registers and command words, and the 10-bit byte address of the host port. -/

namespace Sys2Proof

/-- A byte of a frame, of a buffer or of a command-word field (R10). -/
abbrev Byte := BitVec 8

/-- A u16: a checksum, a block address, a frame length (R8, R10). -/
abbrev Half := BitVec 16

/-- A u32: a register as the host port carries it, or a command word (R8, R79). -/
abbrev Word := BitVec 32

/-- A byte address of the host port, 0x000 to 0x3FF (R50). -/
abbrev PortAddr := BitVec 10

end Sys2Proof
end

