-- ==== Sys2Proof/Syntax.lean ====
section
/-! DEFINITION. TMFC's commands, one constructor per row of spec/opcode_table.json (30_encoding.md R88). -/

namespace Sys2Proof

/-- The two frame variants (R70), as CRC.VERIFY's V field names them: 0 = Simple, 1 = Block (R84). -/
inductive Variant where
  | simple
  | block
  deriving DecidableEq, Repr

/-- A TMFC command with its operands (R79 to R87). Frame bytes are bytes. Buffer indices and the received count are
naturals, which `Instr.wf` bounds by their 9-bit fields. -/
inductive Instr where
  /-- CRC.INIT (R81, R103). -/
  | crcInit
  /-- CRC.BYTE a (R82, R104). -/
  | crcByte (a : Byte)
  /-- CRC.RANGE s, e: first and last index, inclusive (R83, R105). -/
  | crcRange (s e : Nat)
  /-- CRC.VERIFY p, variant: p is the index of the checksum's high byte (R84, R106). -/
  | crcVerify (p : Nat) (variant : Variant)
  /-- FRM.ENCS c, l: command byte and payload length (R85, R132). -/
  | frmEncs (c l : Byte)
  /-- FRM.ENCBW d, c, n: device address, command byte, byte count (R86, R133). -/
  | frmEncbw (d c n : Byte)
  /-- FRM.ENCBR d, c, n: device address, command byte, byte count (R86, R134). -/
  | frmEncbr (d c n : Byte)
  /-- FRM.DECS n: the number of bytes received (R87, R160). -/
  | frmDecs (n : Nat)
  deriving DecidableEq, Repr

end Sys2Proof
end

