-- ==== Sys2Proof/WellFormed.lean ====
section
/-! DEFINITION. When a command fits its word: the operands that are naturals fit their 9-bit fields (30_encoding.md
R83, R84, R87). Values of 280 and above are legal encodings (R91), so 512 is the bound. -/

namespace Sys2Proof

/-- An index or count fits a 9-bit field. -/
def fitsNineBits (k : Nat) : Bool := decide (k < 512)

/-- Every operand fits its field of the command word. -/
def Instr.wf : Instr → Bool
  | .crcInit => true
  | .crcByte _ => true
  | .crcRange s e => fitsNineBits s && fitsNineBits e
  | .crcVerify p _ => fitsNineBits p
  | .frmEncs _ _ => true
  | .frmEncbw _ _ _ => true
  | .frmEncbr _ _ _ => true
  | .frmDecs n => fitsNineBits n

end Sys2Proof
end

