-- ==== Sys2Proof/Decode.lean ====
section
/-! DEFINITION. The command word: its decoder (30_encoding.md R80), its encoder (R81 to R87) and the opcode map as
match and mask rows (R88). -/

namespace Sys2Proof

/-- Why a word is illegal (R90), with its opcode byte. -/
inductive Illegal where
  /-- W[7:0] is none of the eight opcodes. -/
  | unassignedOpcode (op : Byte)
  /-- A reserved field of the opcode's format is not zero. -/
  | reservedBitsSet (op : Byte)
  deriving DecidableEq, Repr

/-- W[lo+len-1:lo] (R10). -/
def wordField (w : Word) (lo len : Nat) : BitVec len := w.extractLsb' lo len

/-- The opcode OP = W[7:0] (R79). -/
def opcodeOf (w : Word) : Byte := wordField w 0 8

/-- The frame variant a V field names (R84). -/
def variantOfBit (v : BitVec 1) : Variant := if v = 1#1 then .block else .simple

/-- The V field that names a frame variant (R84). -/
def bitOfVariant : Variant → BitVec 1
  | .simple => 0#1
  | .block => 1#1

/-- Accept a decoded command if the word's reserved field is zero, else name the word's opcode (R79, R90). -/
def ifReservedZero (w : Word) {len : Nat} (reserved : BitVec len) (i : Instr) : Except Illegal Instr :=
  if reserved = 0#len then .ok i else .error (.reservedBitsSet (opcodeOf w))

/-- The decoder of R80: total on 32-bit words. -/
def decode (w : Word) : Except Illegal Instr :=
  match opcodeOf w with
  | 0x01#8 => ifReservedZero w (wordField w 8 24) .crcInit
  | 0x02#8 => ifReservedZero w (wordField w 16 16) (.crcByte (wordField w 8 8))
  | 0x03#8 => ifReservedZero w (wordField w 26 6)
      (.crcRange (wordField w 8 9).toNat (wordField w 17 9).toNat)
  | 0x04#8 => ifReservedZero w (wordField w 18 14)
      (.crcVerify (wordField w 8 9).toNat (variantOfBit (wordField w 17 1)))
  | 0x10#8 => ifReservedZero w (wordField w 24 8) (.frmEncs (wordField w 8 8) (wordField w 16 8))
  | 0x11#8 => .ok (.frmEncbw (wordField w 24 8) (wordField w 8 8) (wordField w 16 8))
  | 0x12#8 => .ok (.frmEncbr (wordField w 24 8) (wordField w 8 8) (wordField w 16 8))
  | 0x20#8 => ifReservedZero w (wordField w 17 15) (.frmDecs (wordField w 8 9).toNat)
  | op => .error (.unassignedOpcode op)

/-- The command word of a command, field by field from bit 31 down (R81 to R87). An operand that does not fit its field
is cut to it; `Instr.wf` says that none is. -/
def encode : Instr → Word
  | .crcInit => 0#24 ++ 0x01#8
  | .crcByte a => 0#16 ++ a ++ 0x02#8
  | .crcRange s e => 0#6 ++ BitVec.ofNat 9 e ++ BitVec.ofNat 9 s ++ 0x03#8
  | .crcVerify p variant => 0#14 ++ bitOfVariant variant ++ BitVec.ofNat 9 p ++ 0x04#8
  | .frmEncs c l => 0#8 ++ l ++ c ++ 0x10#8
  | .frmEncbw d c n => d ++ n ++ c ++ 0x11#8
  | .frmEncbr d c n => d ++ n ++ c ++ 0x12#8
  | .frmDecs n => 0#15 ++ BitVec.ofNat 9 n ++ 0x20#8

/-- A row of the opcode map (R88): the fixed bits of a command's word. -/
structure OpcodeRow where
  mnemonic : String
  pattern : Word
  mask : Word
  deriving DecidableEq, Repr

/-- The opcode map of R88, row by row. -/
def opcodeMap : List OpcodeRow :=
  [ ⟨"CRC.INIT", 0x00000001#32, 0xFFFFFFFF#32⟩,
    ⟨"CRC.BYTE", 0x00000002#32, 0xFFFF00FF#32⟩,
    ⟨"CRC.RANGE", 0x00000003#32, 0xFC0000FF#32⟩,
    ⟨"CRC.VERIFY", 0x00000004#32, 0xFFFC00FF#32⟩,
    ⟨"FRM.ENCS", 0x00000010#32, 0xFF0000FF#32⟩,
    ⟨"FRM.ENCBW", 0x00000011#32, 0x000000FF#32⟩,
    ⟨"FRM.ENCBR", 0x00000012#32, 0x000000FF#32⟩,
    ⟨"FRM.DECS", 0x00000020#32, 0xFFFE00FF#32⟩ ]

/-- A word selects a row when its masked bits are the row's pattern (R88). -/
def OpcodeRow.selects (r : OpcodeRow) (w : Word) : Bool := w &&& r.mask == r.pattern

/-- A command's name in the opcode map (R88). -/
def mnemonicOf : Instr → String
  | .crcInit => "CRC.INIT"
  | .crcByte _ => "CRC.BYTE"
  | .crcRange _ _ => "CRC.RANGE"
  | .crcVerify _ _ => "CRC.VERIFY"
  | .frmEncs _ _ => "FRM.ENCS"
  | .frmEncbw _ _ _ => "FRM.ENCBW"
  | .frmEncbr _ _ _ => "FRM.ENCBR"
  | .frmDecs _ => "FRM.DECS"

/-- The command word numbered `w` with every bit from `nbits` up zero. A word is delivered whole by one 32-bit CMD
write (R79), so its bits have one numbering and no byte order. -/
def commandWord (nbits w : Nat) : Word := BitVec.ofNat 32 (w % 2 ^ nbits)

/-- The command the decoder reads from the word numbered `w`, or none where it refuses. -/
def decodeTableWord (nbits w : Nat) : Option Instr :=
  match decode (commandWord nbits w) with
  | .ok i => some i
  | .error _ => none

end Sys2Proof
end

