-- ==== Sys2Proof/Config.lean ====
section
/-! DEFINITION. TMFC's fixed parameters as named constants (00_scope.md R8; 93_implementation_defined.md U7), and the
one parameter the spec leaves open, TMFC_BASE (20_memory.md R67). -/

namespace Sys2Proof

/-- The CRC's initial state (R8). -/
abbrev Config.crcInit : Half := 0xFFFF#16

/-- The reflected tap of the CRC (R8). -/
abbrev Config.crcTap : Half := 0xA001#16

/-- Rounds per byte of the CRC (R8). -/
abbrev Config.crcRounds : Nat := 8

/-- `FB_SIZE`, the bytes of the frame buffer (R8). -/
abbrev Config.fbSize : Nat := 280

/-- `PB_SIZE`, the bytes of the payload buffer (R8). -/
abbrev Config.pbSize : Nat := 255

/-- The Simple Frame's start marker (R8). -/
abbrev Config.startMarker : Byte := 0x55#8

/-- The Simple Frame's end marker (R8). -/
abbrev Config.endMarker : Byte := 0xAA#8

/-- Divisor of the block-address split in literal mode, marked suspect by the source (R8, R131). -/
abbrev Config.literalDivisor : Nat := 512

/-- Divisor of the block-address split in conventional mode (R8, R131). -/
abbrev Config.conventionalDivisor : Nat := 256

/-- `TMFC_BASE`: where the platform places the host-port window in the host's address space (R67). The spec leaves it
open, so it has no value here. DESIGN CHOICE, log entry 8: safe. -/
opaque Config.tmfcBase : Nat

end Sys2Proof
end

