-- ==== Sys2Proof/Machine/State.lean ====
section
/-! DEFINITION. TMFC's state as plain data (10_state.md R22 to R39), the accesses and answers of its host port, the
reasons a step can stop, and the state after reset (70_reset_and_hazards.md R210, R211). -/

namespace Sys2Proof.Machine

/-- A buffer: the bytes written since reset, as (index, byte) cells in strictly rising order of index. An index with no
cell is unwritten (R31, R32). -/
abbrev Memory := List Host.Cell

/-- Why the model faults: R39's FaultReason. -/
inductive Fault where
  /-- Answered by a command or a host read that reads the unwritten byte FB[i] (R69). SAFE: the hardware returns some
  byte, the model picks none (U1; log entry 1). -/
  | unwrittenFrame (i : Nat)
  /-- Answered by a command or a host read that reads the unwritten byte PB[i] (R69). SAFE, as `unwrittenFrame`. -/
  | unwrittenPayload (i : Nat)
  /-- Recorded in the fault mark by a host access at address a that the port does not admit (R55, R185). No step stops
  with it: the access completes with an error response and the run goes on (log entry 2). SAFE: a run with the mark set
  is not a good run (R199). -/
  | busError (a : PortAddr)
  deriving DecidableEq, Repr

/-- Why the model refuses a command. -/
inductive Refusal where
  /-- Answered by exec for an instruction that has no meaning yet; no arm of exec answers it. SAFE: the machine stops. -/
  | notModelled (mnemonic : String)
  deriving DecidableEq, Repr

/-- The width of a host read, in bits (R55). -/
inductive Width where
  | w8
  | w16
  | w32
  deriving DecidableEq, Repr

/-- The data of a host write, of one of the three widths (R55). -/
inductive WriteData where
  | d8 (v : Byte)
  | d16 (v : Half)
  | d32 (v : Word)
  deriving DecidableEq, Repr

/-- What the outside world does to TMFC: a host read, a host write (R12, R52), or assertion of the reset input (R210). -/
inductive Input where
  | read (a : PortAddr) (width : Width)
  | write (a : PortAddr) (data : WriteData)
  | reset
  deriving DecidableEq, Repr

/-- What a completed host access returns to the host (R53, R54, R185). -/
inductive Response where
  /-- A buffer read returns the byte. -/
  | byte (v : Byte)
  /-- A register read returns its 32-bit value. -/
  | word (v : Word)
  /-- A write has completed. -/
  | written
  /-- An access that the port does not admit: no data, an error (R185). -/
  | busError (a : PortAddr)
  deriving DecidableEq, Repr

/-- TMFC's state: R39's record, and beside it the model's own `inputs` and `response` (log entries 3 and 4). -/
structure State where
  /-- FB, the frame buffer, by index 0 to 279 (R31). -/
  fb : Memory
  /-- PB, the payload buffer, by index 0 to 254 (R32). -/
  pb : Memory
  /-- CTRL.ASPLIT: false = literal split, true = conventional split (R24). -/
  asplit : Bool
  /-- STATUS (R25). -/
  status : Word
  /-- The checksum accumulator, CRC[15:0] (R28). -/
  crc : Half
  /-- FLEN[15:0], the length of the frame last built or decoded (R29). -/
  flen : Half
  /-- BADDR[15:0], the block-address operand (R30). -/
  baddr : Half
  /-- RCMD[7:0], byte 1 of the last accepted frame (R33). -/
  rcmd : Byte
  /-- RPLEN[7:0], byte 2 of the last accepted frame (R34). -/
  rplen : Byte
  /-- RCRC[15:0], the received checksum last compared (R35). -/
  rcrc : Half
  /-- The model's fault mark (R39): set by a BusError, cleared only by reset. -/
  fault : Option Fault
  /-- The model's own: what the outside world does next, first to last. Each step serves the head. -/
  inputs : List Input
  /-- The model's own: the host port's answer to the access served last. -/
  response : Option Response
  deriving DecidableEq, Repr

/-- What a step answers. -/
abbrev Outcome := Host.Outcome State Fault Refusal

/-- TMFC right after reset (R210, R211), with no access pending and none answered. -/
def State.reset : State where
  fb := []
  pb := []
  asplit := false
  status := 0#32
  crc := Config.crcInit
  flen := 0#16
  baddr := 0#16
  rcmd := 0#8
  rplen := 0#8
  rcrc := 0#16
  fault := none
  inputs := []
  response := none

end Sys2Proof.Machine
end

