-- ==== Sys2Proof/Machine/Flags.lean ====
section
/-! DEFINITION. STATUS: its error codes, its reason codes, its flags and the word they make (10_state.md R25 to R27,
R37). -/

namespace Sys2Proof.Machine

/-- The error codes that commands write (R26). -/
inductive ErrorCode where
  | ok
  | illegal
  | range
  | malformed
  deriving DecidableEq, Repr

/-- The malformed-frame reasons that commands write (R27). -/
inductive Reason where
  | none
  | short
  | start
  | oversize
  | endMarker
  deriving DecidableEq, Repr

/-- STATUS.ERR's value for an error code (R26). -/
def errorBits : ErrorCode → BitVec 4
  | .ok => 0#4
  | .illegal => 1#4
  | .range => 2#4
  | .malformed => 3#4

/-- STATUS.MREASON's value for a reason (R27). -/
def reasonBits : Reason → BitVec 3
  | .none => 0#3
  | .short => 1#3
  | .start => 2#3
  | .oversize => 3#3
  | .endMarker => 4#3

/-- STATUS from its fields, reserved bits zero (R25): bits 31:10 and 7 are reserved, CKMATCH is bit 9, CKDONE bit 8,
MREASON bits 6:4 and ERR bits 3:0. -/
def statusWord (code : ErrorCode) (reason : Reason) (ckdone ckmatch : Bool) : Word :=
  0#22 ++ BitVec.ofBool ckmatch ++ BitVec.ofBool ckdone ++ 0#1 ++ reasonBits reason ++ errorBits code

/-- STATUS.ERR (R25). -/
def statusErr (st : Word) : BitVec 4 := st.extractLsb' 0 4

/-- STATUS.MREASON (R25). -/
def statusReason (st : Word) : BitVec 3 := st.extractLsb' 4 3

/-- STATUS.CKDONE (R25). -/
def statusCkdone (st : Word) : Bool := st.getLsbD 8

/-- STATUS.CKMATCH (R25). -/
def statusCkmatch (st : Word) : Bool := st.getLsbD 9

/-- STATUS's reserved bits, 31:10 and 7, read as zero (R25). -/
def statusReservedZero (st : Word) : Bool := st.extractLsb' 10 22 == 0#22 && !st.getLsbD 7

/-- The legal values of STATUS (R25): (ERR, MREASON) is (0,0), (1,0), (2,0) or (3,r) with r in 1 to 4, CKDONE only with
ERR = 0, CKMATCH only with CKDONE, reserved bits zero. -/
def statusLegal (st : Word) : Bool :=
  statusReservedZero st &&
  ((decide ((statusErr st).toNat < 3) && statusReason st == 0#3) ||
    (statusErr st == 3#4 && decide (1 ≤ (statusReason st).toNat) && decide ((statusReason st).toNat ≤ 4))) &&
  (!statusCkdone st || statusErr st == 0#4) &&
  (!statusCkmatch st || statusCkdone st)

end Sys2Proof.Machine
end

