-- ==== Sys2Proof/Machine/Ops.lean ====
section
/-! DEFINITION. The named operations on buffers and registers, and the ways a command or an access ends:
`completeCommand` and `failCommand` (00_scope.md R13) and `raiseBusError` (60_exceptions.md R185). -/

namespace Sys2Proof.Machine

/-! ## Buffers (R31, R32, R53) -/

/-- What an index with no cell holds: no byte, because nothing has written it (R31, R69; log entry 1). -/
def Memory.unwritten : Option Byte := none

/-- The byte at an index, or none where it is unwritten. -/
def Memory.read : Memory → Nat → Option Byte
  | [], _ => Memory.unwritten
  | cell :: rest, i => if cell.1 = i then some cell.2 else Memory.read rest i

/-- The buffer with one byte written; the cells stay in rising order. -/
def Memory.write : Memory → Nat → Byte → Memory
  | [], i, v => [(i, v)]
  | cell :: rest, i, v =>
    if i < cell.1 then (i, v) :: cell :: rest
    else if i = cell.1 then (i, v) :: rest
    else cell :: Memory.write rest i v

/-- The cells are at strictly rising indices, from `lo` up and below `size`. -/
def Memory.wfFrom (size : Nat) : Nat → Memory → Bool
  | _, [] => true
  | lo, cell :: rest => decide (lo ≤ cell.1) && decide (cell.1 < size) && Memory.wfFrom size (cell.1 + 1) rest

/-- The one canonical form of a buffer of `size` bytes. -/
def Memory.wf (size : Nat) (m : Memory) : Bool := Memory.wfFrom size 0 m

/-- Write bytes at ascending indices from `i` up. -/
def Memory.writeBytes (m : Memory) (i : Nat) : List Byte → Memory
  | [] => m
  | v :: rest => Memory.writeBytes (Memory.write m i v) (i + 1) rest

/-- One byte of a buffer, or its index where it is unwritten (R69). -/
def Memory.readByte (m : Memory) (i : Nat) : Except Nat Byte :=
  match Memory.read m i with
  | none => .error i
  | some v => .ok v

/-- Read `count` bytes at ascending indices from `i` up: the bytes, or the first unwritten index (R69, R183). -/
def Memory.readBytes (m : Memory) : Nat → Nat → Except Nat (List Byte)
  | _, 0 => .ok []
  | i, count + 1 =>
    match Memory.read m i with
    | none => .error i
    | some v =>
      match Memory.readBytes m (i + 1) count with
      | .error k => .error k
      | .ok rest => .ok (v :: rest)

/-! ## Registers: one update per field (R22) -/

def State.setFb (s : State) (v : Memory) : State := { s with fb := v }
def State.setPb (s : State) (v : Memory) : State := { s with pb := v }
def State.setAsplit (s : State) (v : Bool) : State := { s with asplit := v }
def State.setStatus (s : State) (v : Word) : State := { s with status := v }
def State.setCrc (s : State) (v : Half) : State := { s with crc := v }
def State.setFlen (s : State) (v : Half) : State := { s with flen := v }
def State.setBaddr (s : State) (v : Half) : State := { s with baddr := v }
def State.setRcmd (s : State) (v : Byte) : State := { s with rcmd := v }
def State.setRplen (s : State) (v : Byte) : State := { s with rplen := v }
def State.setRcrc (s : State) (v : Half) : State := { s with rcrc := v }
def State.setFault (s : State) (v : Option Fault) : State := { s with fault := v }
def State.setInputs (s : State) (v : List Input) : State := { s with inputs := v }
def State.setResponse (s : State) (v : Option Response) : State := { s with response := v }

/-! ## How a command ends (R13) -/

/-- `ok(ckdone, ckmatch)`: STATUS is the command's last write (R13). -/
def completeCommand (ckdone ckmatch : Bool) (s : State) : Outcome :=
  .next (s.setStatus (statusWord .ok .none ckdone ckmatch))

/-- `fail(code, reason)`: the one way a command takes an error. It writes STATUS and no other state (R13, R184). -/
def failCommand (code : ErrorCode) (reason : Reason) (s : State) : Outcome :=
  .next (s.setStatus (statusWord code reason false false))

/-- Go on with the value a frame-buffer read gave, or stop at the unwritten byte it met (R69). -/
def withFrame {α : Type} (r : Except Nat α) (k : α → Outcome) : Outcome :=
  match r with
  | .error i => .fault (.unwrittenFrame i)
  | .ok v => k v

/-- Go on with the value a payload-buffer read gave, or stop at the unwritten byte it met (R69). -/
def withPayload {α : Type} (r : Except Nat α) (k : α → Outcome) : Outcome :=
  match r with
  | .error i => .fault (.unwrittenPayload i)
  | .ok v => k v

/-! ## How a host access ends (R53 to R55, R185) -/

/-- The host port answers the access it has served. -/
def respond (r : Response) (s : State) : State := s.setResponse (some r)

/-- Set the fault mark; a mark once set stays as it is (R39). DESIGN CHOICE, log entry 2: of several reasons the first
is kept. -/
def markFault (r : Fault) (s : State) : State :=
  match s.fault with
  | none => s.setFault (some r)
  | some _ => s

/-- `raise BusError(a)` (R185): an error response carrying a, the fault mark set, no TMFC state changed. -/
def raiseBusError (a : PortAddr) (s : State) : Outcome :=
  .next (respond (.busError a) (markFault (.busError a) s))

end Sys2Proof.Machine
end

