-- ==== Sys2Proof/Machine/Operands.lean ====
section
/-! DEFINITION. What commands read as operands: bytes of a u16 and their reassembly (00_scope.md R14; 30_encoding.md
R77), a received checksum (20_memory.md R57), the start of a checksum domain (R74, R75) and the
block-address split (41_frame_encode.md R131). -/

namespace Sys2Proof.Machine

/-- `lo8(v)` = v[7:0] (R14). -/
def lo8 (v : Half) : Byte := v.extractLsb' 0 8

/-- `hi8(v)` = v[15:8] (R14). -/
def hi8 (v : Half) : Byte := v.extractLsb' 8 8

/-- `{hi, lo}`: a 16-bit value from its two bytes (R10, R77). -/
def joinBytes (hi lo : Byte) : Half := hi ++ lo

/-- The received checksum whose high byte is at FB[p] and low byte at FB[p-1] (R57(c), R77), for p ≥ 1. The low byte is
read first. DESIGN CHOICE, log entry 7. -/
def receivedChecksum (fb : Memory) (p : Nat) : Except Nat Half :=
  match fb.readByte (p - 1), fb.readByte p with
  | .error k, _ => .error k
  | .ok _, .error k => .error k
  | .ok lo, .ok hi => .ok (joinBytes hi lo)

/-- Where a variant's checksum domain starts: index 1 in a Simple Frame, index 0 in a Block Frame (R74, R75, R106). -/
def domainStart : Variant → Nat
  | .simple => 1
  | .block => 0

/-- AH of the block-address split (R131): the low 8 bits of BADDR / 512 in literal mode, of BADDR / 256 in
conventional mode. -/
def addressHigh (baddr : Half) (asplit : Bool) : Byte :=
  BitVec.ofNat 8 (baddr.toNat / (if asplit then Config.conventionalDivisor else Config.literalDivisor))

/-- AL of the block-address split, BADDR[7:0] in both modes (R131, D13; log entry 11). -/
def addressLow (baddr : Half) : Byte := lo8 baddr

end Sys2Proof.Machine
end

