-- ==== Sys2Proof/Machine/Checksum.lean ====
section
/-! DEFINITION. The checksum function (40_crc.md R101, R102), kept exactly as the source gives it (R109). -/

namespace Sys2Proof.Machine

/-- One round of R101: test the low bit, shift right one bit, XOR the tap if the tested bit was 1. -/
def crcRound (c : Half) : Half :=
  if c.getLsbD 0 then (c >>> 1) ^^^ Config.crcTap else c >>> 1

/-- A number of rounds, one after the other. -/
def crcRoundsFrom : Nat → Half → Half
  | 0, c => c
  | k + 1, c => crcRoundsFrom k (crcRound c)

/-- `crc_step(c, b)` (R101): the byte enters at bits 7:0, then 8 rounds. -/
def crcStep (c : Half) (b : Byte) : Half :=
  crcRoundsFrom Config.crcRounds (c ^^^ b.setWidth 16)

/-- The checksum of a byte sequence in ascending order, from the initial state, with no final XOR (R102). -/
def crcOfBytes (bytes : List Byte) : Half := bytes.foldl crcStep Config.crcInit

/-- How many indices the inclusive range s..e holds: none when e < s (R102). -/
def rangeCount (s : Nat) (e : Int) : Nat := (e + 1 - s).toNat

/-- `crc(FB, s, e)` (R102) over the inclusive range s..e of a buffer, or the first unwritten index of the range. It
reads the bytes of the range and nothing else. -/
def crcOfRange (buf : Memory) (s : Nat) (e : Int) : Except Nat Half :=
  match buf.readBytes s (rangeCount s e) with
  | .error i => .error i
  | .ok bytes => .ok (crcOfBytes bytes)

end Sys2Proof.Machine
end

