-- ==== Sys2Proof/Machine/Crc.lean ====
section
/-! DEFINITION. The CRC family: CRC.INIT, CRC.BYTE, CRC.RANGE and CRC.VERIFY (40_crc.md R103 to R106). -/

namespace Sys2Proof.Machine

/-- CRC.INIT (R103): the accumulator returns to 0xFFFF. -/
def execCrcInit (s : State) : Outcome :=
  completeCommand false false (s.setCrc Config.crcInit)

/-- CRC.BYTE a (R104): the accumulator advances by one byte. -/
def execCrcByte (a : Byte) (s : State) : Outcome :=
  completeCommand false false (s.setCrc (crcStep s.crc a))

/-- CRC.RANGE s, e (R105): an empty range gives 0xFFFF with no bounds check, a range that leaves FB fails, and else the
accumulator takes the range's checksum. -/
def execCrcRange (first last : Nat) (s : State) : Outcome :=
  if last < first then completeCommand false false (s.setCrc Config.crcInit)
  else if Config.fbSize ≤ last then failCommand .range .none s
  else withFrame (crcOfRange s.fb first last) fun k => completeCommand false false (s.setCrc k)

/-- The last action of CRC.VERIFY and FRM.DECS (R106, R160): the computed and the received checksum are kept and
compared. -/
def reportChecksums (computed received : Half) (s : State) : Outcome :=
  completeCommand true (decide (computed = received)) ((s.setCrc computed).setRcrc received)

/-- CRC.VERIFY p, variant (R106): compare the checksum of the variant's domain up to p - 2 with the one at p - 1, p. -/
def execCrcVerify (p : Nat) (variant : Variant) (s : State) : Outcome :=
  if p = 0 ∨ Config.fbSize ≤ p then failCommand .range .none s
  else
    withFrame (crcOfRange s.fb (domainStart variant) ((p : Int) - 2)) fun computed =>
      withFrame (receivedChecksum s.fb p) fun received => reportChecksums computed received s

end Sys2Proof.Machine
end

