-- ==== Sys2Proof/Machine/FrameDecode.lean ====
section
/-! DEFINITION. The frame decoder FRM.DECS (42_frame_decode.md R160 to R168). -/

namespace Sys2Proof.Machine

/-- The length a Simple Frame's byte 2 implies, L + 6 (R71, R76). -/
def impliedLength (l : Byte) : Nat := l.toNat + 6

/-- FRM.DECS on a frame that `check_frame` accepted, of implied length f and payload length byte l (R160). -/
def acceptFrame (f : Nat) (l : Byte) (s : State) : Outcome :=
  withFrame (crcOfRange s.fb 1 ((f : Int) - 4)) fun computed =>
    withFrame (receivedChecksum s.fb (f - 2)) fun received =>
      withFrame (s.fb.readByte 1) fun cmd =>
        reportChecksums computed received
          (((s.setFlen (BitVec.ofNat 16 f)).setRcmd cmd).setRplen l)

/-- `check_frame(n)` (R162), its checks in their order; an accepted frame goes on to `acceptFrame`. The OVERSIZE check
never fires (R163) and is kept (log entry 13). -/
def checkFrame (n : Nat) (s : State) : Outcome :=
  if n < 6 then failCommand .malformed .short s
  else withFrame (s.fb.readByte 0) fun start =>
    if start ≠ Config.startMarker then failCommand .malformed .start s
    else withFrame (s.fb.readByte 2) fun l =>
      if Config.fbSize < impliedLength l then failCommand .malformed .oversize s
      else if n < impliedLength l then failCommand .malformed .short s
      else withFrame (s.fb.readByte (impliedLength l - 1)) fun last =>
        if last ≠ Config.endMarker then failCommand .malformed .endMarker s
        else acceptFrame (impliedLength l) l s

/-- FRM.DECS n (R160): `check_range(n)` (R161), then `check_frame(n)`, then the results. -/
def execFrmDecs (n : Nat) (s : State) : Outcome :=
  if Config.fbSize < n then failCommand .range .none s else checkFrame n s

end Sys2Proof.Machine
end

