-- ==== Sys2Proof/Machine/FrameEncode.lean ====
section
/-! DEFINITION. The frame encoders: FRM.ENCS, FRM.ENCBW and FRM.ENCBR (41_frame_encode.md R130 to R134), over the frame
layouts of 30_encoding.md R71 and R72. -/

namespace Sys2Proof.Machine

/-- The checksum domain of a Simple Frame: command, length, payload (R74). -/
def simpleDomain (c l : Byte) (payload : List Byte) : List Byte := c :: l :: payload

/-- A Block Frame's five leading bytes (R72). -/
def blockHeader (d c n : Byte) (s : State) : List Byte :=
  [d, c, n, addressHigh s.baddr s.asplit, addressLow s.baddr]

/-- The two checksum bytes of a frame, low byte first (R57(a), R77). -/
def checksumBytes (k : Half) : List Byte := [lo8 k, hi8 k]

/-- A Simple Frame (R71): start marker, domain, checksum, end marker. -/
def simpleFrame (c l : Byte) (payload : List Byte) : List Byte :=
  Config.startMarker :: (simpleDomain c l payload ++
    (checksumBytes (crcOfBytes (simpleDomain c l payload)) ++ [Config.endMarker]))

/-- A Block Frame (R72): its checksum domain, then the checksum, with no markers (R75). -/
def blockFrame (domain : List Byte) : List Byte := domain ++ checksumBytes (crcOfBytes domain)

/-- What every encode command does with the frame it built (R130): FB from index 0, FLEN, CRC, then ok(0, 0). The
payload's copy and the checksum are made before this one write of FB, which R136 says no one can observe (log
entry 10). -/
def emitFrame (frame : List Byte) (len : Nat) (k : Half) (s : State) : Outcome :=
  completeCommand false false
    (((s.setFb (s.fb.writeBytes 0 frame)).setFlen (BitVec.ofNat 16 len)).setCrc k)

/-- FRM.ENCS c, l (R132): a Simple Frame of L + 6 bytes around the payload PB[0..L-1]. -/
def execFrmEncs (c l : Byte) (s : State) : Outcome :=
  withPayload (s.pb.readBytes 0 l.toNat) fun payload =>
    emitFrame (simpleFrame c l payload) (l.toNat + 6) (crcOfBytes (simpleDomain c l payload)) s

/-- FRM.ENCBW d, c, n (R133): a Block Frame of N + 7 bytes with the payload PB[0..N-1]. -/
def execFrmEncbw (d c n : Byte) (s : State) : Outcome :=
  withPayload (s.pb.readBytes 0 n.toNat) fun payload =>
    emitFrame (blockFrame (blockHeader d c n s ++ payload)) (n.toNat + 7)
      (crcOfBytes (blockHeader d c n s ++ payload)) s

/-- FRM.ENCBR d, c, n (R134): a Block Frame of 7 bytes, its payload omitted whatever N is (R73). PB is not read. -/
def execFrmEncbr (d c n : Byte) (s : State) : Outcome :=
  emitFrame (blockFrame (blockHeader d c n s)) 7 (crcOfBytes (blockHeader d c n s)) s

end Sys2Proof.Machine
end

