-- ==== Sys2Proof/Machine/Dispatch.lean ====
section
/-! DEFINITION. One arm per command, each one call of its meaning (30_encoding.md R88). -/

namespace Sys2Proof.Machine

/-- What a command does (R60, step 3). -/
def exec (i : Instr) (s : State) : Host.Outcome State Fault Refusal :=
  match i with
  | .crcInit => Sys2Proof.Machine.execCrcInit s
  | .crcByte a => Sys2Proof.Machine.execCrcByte a s
  | .crcRange first last => Sys2Proof.Machine.execCrcRange first last s
  | .crcVerify p variant => Sys2Proof.Machine.execCrcVerify p variant s
  | .frmEncs c l => Sys2Proof.Machine.execFrmEncs c l s
  | .frmEncbw d c n => Sys2Proof.Machine.execFrmEncbw d c n s
  | .frmEncbr d c n => Sys2Proof.Machine.execFrmEncbr d c n s
  | .frmDecs n => Sys2Proof.Machine.execFrmDecs n s

end Sys2Proof.Machine
end

