-- ==== Sys2Proof/Machine/HostPort.lean ====
section
/-! DEFINITION. The host port: its address map (20_memory.md R52), host reads and writes (R53 to R56), the command that a
CMD write issues (R60), and the reset input (70_reset_and_hazards.md R210). -/

namespace Sys2Proof.Machine

/-- The registers of R22. -/
inductive Register where
  | ctrl
  | status
  | crc
  | flen
  | baddr
  | rcmd
  | rplen
  | rcrc
  | cmd
  deriving DecidableEq, Repr

/-- What stands at a host-port address (R52). -/
inductive PortTarget where
  | frame (i : Nat)
  | payload (i : Nat)
  | register (r : Register)
  | unmapped
  deriving DecidableEq, Repr

/-- The port address of PB[0] (R52). -/
abbrev pbBase : Nat := 0x200

/-- A register's port address (R22). -/
def registerAddr : Register → PortAddr
  | .ctrl => 0x300#10
  | .status => 0x304#10
  | .crc => 0x308#10
  | .flen => 0x30C#10
  | .baddr => 0x310#10
  | .rcmd => 0x314#10
  | .rplen => 0x318#10
  | .rcrc => 0x31C#10
  | .cmd => 0x320#10

/-- The register at a port address, if one is (R22, R52). -/
def registerAt (a : PortAddr) : Option Register :=
  [Register.ctrl, .status, .crc, .flen, .baddr, .rcmd, .rplen, .rcrc, .cmd].find? fun r => registerAddr r == a

/-- Host-port address decode (R52). -/
def portTarget (a : PortAddr) : PortTarget :=
  if a.toNat < Config.fbSize then .frame a.toNat
  else if pbBase ≤ a.toNat ∧ a.toNat < pbBase + Config.pbSize then .payload (a.toNat - pbBase)
  else match registerAt a with
    | some r => .register r
    | none => .unmapped

/-- A register's 32-bit value as the host reads it: reserved bits and CMD read zero (R22 to R36, R54). -/
def readRegister (r : Register) (s : State) : Word :=
  match r with
  | .ctrl => (BitVec.ofBool s.asplit).setWidth 32
  | .status => s.status
  | .crc => s.crc.setWidth 32
  | .flen => s.flen.setWidth 32
  | .baddr => s.baddr.setWidth 32
  | .rcmd => s.rcmd.setWidth 32
  | .rplen => s.rplen.setWidth 32
  | .rcrc => s.rcrc.setWidth 32
  | .cmd => 0#32

/-- A CMD write's command (R60): decode, then the command's rule, or fail(ILLEGAL, 0) where the word is illegal (R90). -/
def issueCommand (w : Word) (s : State) : Outcome :=
  match decode w with
  | .ok i => exec i s
  | .error _ => failCommand .illegal .none s

/-- A host write of a 32-bit value to a register (R54): RW registers take their writable bits, RO registers ignore it
(R23; log entry 14), CMD issues a command. -/
def writeRegister (r : Register) (v : Word) (s : State) : Outcome :=
  match r with
  | .ctrl => .next (s.setAsplit (v.getLsbD 0))
  | .baddr => .next (s.setBaddr (v.extractLsb' 0 16))
  | .cmd => issueCommand v s
  | .status => .next s
  | .crc => .next s
  | .flen => .next s
  | .rcmd => .next s
  | .rplen => .next s
  | .rcrc => .next s

/-- A host read (R53 to R55): a byte of a buffer, a word of a register, and for anything else a BusError. It changes
nothing but the answer (R56). -/
def hostRead (a : PortAddr) (width : Width) (s : State) : Outcome :=
  match portTarget a, width with
  | .frame i, .w8 => withFrame (s.fb.readByte i) fun v => .next (respond (.byte v) s)
  | .payload i, .w8 => withPayload (s.pb.readByte i) fun v => .next (respond (.byte v) s)
  | .register r, .w32 => .next (respond (.word (readRegister r s)) s)
  | _, _ => raiseBusError a s

/-- A host write (R53 to R55). -/
def hostWrite (a : PortAddr) (data : WriteData) (s : State) : Outcome :=
  match portTarget a, data with
  | .frame i, .d8 v => .next (respond .written (s.setFb (s.fb.write i v)))
  | .payload i, .d8 v => .next (respond .written (s.setPb (s.pb.write i v)))
  | .register r, .d32 v => writeRegister r v (respond .written s)
  | _, _ => raiseBusError a s

/-- The reset input (R210): every field at its reset value, what is still to come kept (log entry 6). -/
def resetInput (s : State) : State := State.reset.setInputs s.inputs

/-- Serve one input. -/
def serveInput (input : Input) (s : State) : Outcome :=
  match input with
  | .read a width => hostRead a width s
  | .write a data => hostWrite a data s
  | .reset => .next (resetInput s)

/-- One step of the machine: the first pending input is served; with none pending TMFC waits and nothing changes
(R61, R212; log entries 3 and 5). -/
def serveNext (s : State) : Outcome :=
  match s.inputs with
  | [] => .next s
  | input :: rest => serveInput input (s.setInputs rest)

/-- The host access that issues a command word: a 32-bit write to CMD (R36, R92). -/
def commandInput (w : Word) : Input := .write (registerAddr .cmd) (.d32 w)

/-- The command word put first among what the host does next (log entry 3). -/
def placeCommand (w : Word) (s : State) : State := s.setInputs (commandInput w :: s.inputs)

/-- The host's own address of a port address (R67): the platform adds TMFC_BASE. -/
def hostAddress (a : PortAddr) : Nat := Config.tmfcBase + a.toNat

/-- The port address a host address reaches, if it lies in the window (R67). -/
def portAddressOf (h : Nat) : Option PortAddr :=
  if Config.tmfcBase ≤ h ∧ h < Config.tmfcBase + 1024 then some (BitVec.ofNat 10 (h - Config.tmfcBase)) else none

end Sys2Proof.Machine
end

