-- ==== Sys2Proof/Machine/Step.lean ====
section
/-! DEFINITION. The step, and where a command word is put for the next step to run (10_state.md R21, R36; log entry 3). -/

namespace Sys2Proof.Machine

/-- One step: the first pending host access or reset is served (20_memory.md R60, R61). -/
def step (s : State) : Host.Outcome State Fault Refusal := serveNext s

/-- The state whose next input is the CMD write of the word numbered `w`, with every bit from `nbits` up zero. -/
def State.withFetchWord (s : State) (nbits w : Nat) : State := placeCommand (commandWord nbits w) s

end Sys2Proof.Machine
end

