-- ==== Sys2Proof/Machine/Assembly.lean ====
section
/-! DEFINITION. The spec's assembly operations and pseudo-instructions as the host accesses they stand for
(30_encoding.md R92, R93). Labels, branches and HALT are the host's own and are not TMFC's (R92, R94). -/

namespace Sys2Proof.Machine

/-- One line of a host program (R92, R93). -/
inductive HostOp where
  | wr8 (a : PortAddr) (v : Byte)
  | rd8 (a : PortAddr)
  | wr32 (a : PortAddr) (v : Word)
  | rd32 (a : PortAddr)
  | command (i : Instr)
  | pbLoad (i : Nat) (bytes : List Byte)
  | fbLoad (i : Nat) (bytes : List Byte)
  | crcBytes (bytes : List Byte)
  | setBaddr (a : Half)
  | setSplit (m : Bool)
  | rdStatus
  deriving DecidableEq, Repr

/-- 8-bit writes of bytes at ascending port addresses from `a` (R93). -/
def loadBytes (a : Nat) : List Byte → List Input
  | [] => []
  | v :: rest => .write (BitVec.ofNat 10 a) (.d8 v) :: loadBytes (a + 1) rest

/-- The host accesses a line stands for (R92, R93). -/
def expandOp (op : HostOp) : List Input :=
  match op with
  | .wr8 a v => [.write a (.d8 v)]
  | .rd8 a => [.read a .w8]
  | .wr32 a v => [.write a (.d32 v)]
  | .rd32 a => [.read a .w32]
  | .command i => [commandInput (encode i)]
  | .pbLoad i bytes => loadBytes (pbBase + i) bytes
  | .fbLoad i bytes => loadBytes i bytes
  | .crcBytes bytes => bytes.map fun b => commandInput (encode (.crcByte b))
  | .setBaddr a => [.write (registerAddr .baddr) (.d32 (a.setWidth 32))]
  | .setSplit m => [.write (registerAddr .ctrl) (.d32 ((BitVec.ofBool m).setWidth 32))]
  | .rdStatus => [.read (registerAddr .status) .w32]

end Sys2Proof.Machine
end

