-- ==== Sys2Proof/Safety.lean ====
section
/-! DEFINITION. The terms claims use: what a buffer holds, which accesses the port admits (20_memory.md R52), a legal
state (10_state.md R25, R29, R31, R32), a good run's state (60_exceptions.md R199), and commands issued in a row. -/

namespace Sys2Proof.Machine

/-- The buffer holds these bytes, all written, from index `i` up. -/
abbrev Memory.holds (m : Memory) (i : Nat) (bytes : List Byte) : Prop :=
  ∀ k (h : k < bytes.length), m.read (i + k) = some bytes[k]

/-- The one width the port admits at an address, if any: the table of R52 as numbers. -/
def admittedWidth (a : PortAddr) : Option Width :=
  if a.toNat ≤ 0x117 then some .w8
  else if 0x200 ≤ a.toNat ∧ a.toNat ≤ 0x2FE then some .w8
  else if 0x300 ≤ a.toNat ∧ a.toNat ≤ 0x320 ∧ a.toNat % 4 = 0 then some .w32
  else none

/-- The width of a host write (R55). -/
def WriteData.width : WriteData → Width
  | .d8 _ => .w8
  | .d16 _ => .w16
  | .d32 _ => .w32

/-- A legal state: both buffers in canonical form and inside their sizes (R31, R32), STATUS at a legal value with its
reserved bits zero (R25), FLEN in 0..280 (R29). -/
def State.legal (s : State) : Bool :=
  s.fb.wf Config.fbSize && s.pb.wf Config.pbSize && statusLegal s.status && decide (s.flen.toNat ≤ Config.fbSize)

/-- A state is good only when the model's fault mark is clear (R199). -/
def State.good (s : State) : Bool := s.fault == none

/-- Commands issued one after the other with nothing between them, up to the first fault or refusal. -/
def execAll : List Instr → State → Outcome
  | [], s => .next s
  | i :: rest, s =>
    match exec i s with
    | .next t => execAll rest t
    | .fault r => .fault r
    | .refused r => .refused r

end Sys2Proof.Machine
end

