-- ==== Sys2Proof/Certificates/Slice0/Obligations.lean ====
section
/-! DEFINITION. The statements for the provers, from the numbered rules of spec/. A statement `exec i s = .next t` with t
written as an update of s is also the frame: every field it does not name is unchanged. -/

open Sys2Proof Sys2Proof.Machine

/-! ## The checksum function and the bytes of a checksum -/

/-- R101 whole, but for its derived remark on bit 15: the byte enters at the low end, then eight times the low bit is
tested, the state shifts right one bit with zeros, and 0xA001 is XORed in if the tested bit was 1. -/
def Obligations.CrcStepIsEightTappedShifts : Prop :=
  (∀ c : Half, crcRound c = if c.getLsbD 0 then (c >>> 1) ^^^ 0xA001#16 else c >>> 1) ∧
  (∀ (c : Half) (b : Byte), crcStep c b = crcRound^[8] (c ^^^ b.setWidth 16))

/-- What the spec derives from R101: after a round bit 15 is the tested bit (R101), so for each byte the step is a
bijection on the state (R108's second point). -/
def Obligations.CrcStepIsBijectiveForEachByte : Prop :=
  (∀ c : Half, (crcRound c).getLsbD 15 = c.getLsbD 0) ∧
  ∀ b : Byte, Function.Bijective fun c : Half => crcStep c b

/-- R102 whole: an empty range gives 0xFFFF and reads nothing, a non-empty range starts from 0xFFFF and takes its bytes
in ascending order with no final step, nothing but the range's bytes counts, and other orders can give other results. -/
def Obligations.CrcOfRangeFoldsAscendingBytes : Prop :=
  (∀ (m : Memory) (s : Nat) (e : Int), e < s → crcOfRange m s e = .ok 0xFFFF#16) ∧
  (∀ (m : Memory) (s : Nat) (e : Int) (bytes : List Byte), (bytes.length : Int) = e + 1 - s → m.holds s bytes →
    crcOfRange m s e = .ok (bytes.foldl crcStep 0xFFFF#16)) ∧
  (∀ (m m' : Memory) (s : Nat) (e : Int), (∀ j : Nat, s ≤ j → (j : Int) ≤ e → m.read j = m'.read j) →
    crcOfRange m s e = crcOfRange m' s e) ∧
  (∃ a b : Byte, [a, b].foldl crcStep 0xFFFF#16 ≠ [b, a].foldl crcStep 0xFFFF#16)

/-- R77 whole: a checksum is written low byte first, and two bytes read back give {hi, lo} = lo + 256 × hi. -/
def Obligations.ChecksumBytesReassemble : Prop :=
  (∀ k : Half, checksumBytes k = [k.extractLsb' 0 8, k.extractLsb' 8 8]) ∧
  (∀ hi lo : Byte, joinBytes hi lo = hi ++ lo ∧ (joinBytes hi lo).toNat = lo.toNat + 256 * hi.toNat) ∧
  (∀ k : Half, joinBytes (hi8 k) (lo8 k) = k) ∧
  (∀ (m : Memory) (p : Nat) (hi lo : Byte), 1 ≤ p → m.read (p - 1) = some lo → m.read p = some hi →
    receivedChecksum m p = .ok (hi ++ lo))

/-- R131 whole, but for what it derives: the high byte is the low 8 bits of BADDR / 512 when ASPLIT = 0 and of
BADDR / 256 when ASPLIT = 1, and the low byte is BADDR[7:0] in both modes (the spec's decision D13; log entry 11). -/
def Obligations.BlockAddressSplitFollowsItsMode : Prop :=
  ∀ a : Half,
    addressHigh a false = BitVec.ofNat 8 (a.toNat / 512) ∧ addressHigh a false = (a.extractLsb' 9 7).setWidth 8 ∧
    (addressHigh a false).toNat ≤ 127 ∧
    addressHigh a true = BitVec.ofNat 8 (a.toNat / 256) ∧ addressHigh a true = a.extractLsb' 8 8 ∧
    addressLow a = a.extractLsb' 0 8

/-- R131's aliasing, which the spec derives: under the literal split a pair of block addresses gives one pair of bytes
exactly when they differ in bit 8 alone or not at all; the conventional split loses nothing (log entry 11). -/
def Obligations.LiteralSplitLosesBitEightAlone : Prop :=
  (∀ a b : Half, (addressHigh a false = addressHigh b false ∧ addressLow a = addressLow b) ↔
    (b = a ∨ b = a ^^^ 0x100#16)) ∧
  (∀ a : Half, joinBytes (addressHigh a true) (addressLow a) = a)

/-! ## The CRC family -/

/-- R103: CRC.INIT always completes, with the accumulator at 0xFFFF and STATUS at 0. -/
def Obligations.CrcInitResetsAccumulator : Prop :=
  ∀ s : State, exec .crcInit s = .next { s with crc := 0xFFFF#16, status := 0#32 }

/-- R104: CRC.BYTE always completes, with the accumulator advanced by its byte and STATUS at 0. -/
def Obligations.CrcByteAdvancesAccumulator : Prop :=
  ∀ (a : Byte) (s : State), exec (.crcByte a) s = .next { s with crc := crcStep s.crc a, status := 0#32 }

/-- R105: over written bytes inside FB, CRC.RANGE completes with their checksum. -/
def Obligations.CrcRangeComputesChecksum : Prop :=
  ∀ (s : State) (first last : Nat) (bytes : List Byte),
    first ≤ last → last < 280 → bytes.length = last + 1 - first → s.fb.holds first bytes →
    exec (.crcRange first last) s = .next { s with crc := bytes.foldl crcStep 0xFFFF#16, status := 0#32 }

/-- R105: an empty range gives 0xFFFF for any indices, with no bounds check. -/
def Obligations.CrcRangeEmptyGivesInitialState : Prop :=
  ∀ (s : State) (first last : Nat), last < first →
    exec (.crcRange first last) s = .next { s with crc := 0xFFFF#16, status := 0#32 }

/-- R106: CRC.VERIFY completes when its domain and the two checksum bytes are written; it keeps both checksums and
reports their comparison. -/
def Obligations.CrcVerifyComparesChecksums : Prop :=
  ∀ (s : State) (p : Nat) (variant : Variant) (domain : List Byte) (lo hi : Byte),
    1 ≤ p → p < 280 →
    domain.length = p - 1 - (if variant = .block then 0 else 1) →
    s.fb.holds (if variant = .block then 0 else 1) domain →
    s.fb.read (p - 1) = some lo → s.fb.read p = some hi →
    exec (.crcVerify p variant) s =
      .next { s with
        crc := domain.foldl crcStep 0xFFFF#16
        rcrc := hi ++ lo
        status := if domain.foldl crcStep 0xFFFF#16 = hi ++ lo then 0x300#32 else 0x100#32 }

/-- R161 whole, and the RANGE errors of R105 and R106: an index operand outside FB gives ERR = RANGE, and nothing but
STATUS changes. -/
def Obligations.OperandOutsideFrameBufferGivesRange : Prop :=
  (∀ (s : State) (first last : Nat), first ≤ last → 280 ≤ last →
    exec (.crcRange first last) s = .next { s with status := 2#32 }) ∧
  (∀ (s : State) (p : Nat) (variant : Variant), p = 0 ∨ 280 ≤ p →
    exec (.crcVerify p variant) s = .next { s with status := 2#32 }) ∧
  (∀ (s : State) (n : Nat), 280 < n → exec (.frmDecs n) s = .next { s with status := 2#32 })

/-- R107 (derived in the spec): CRC.INIT and one CRC.BYTE per byte end as CRC.RANGE over those bytes does. -/
def Obligations.IncrementalAndRangeChecksumsAgree : Prop :=
  ∀ (s : State) (first last : Nat) (bytes : List Byte),
    first ≤ last → last < 280 → bytes.length = last + 1 - first → s.fb.holds first bytes →
    ∃ t : State, execAll (.crcInit :: bytes.map .crcByte) s = .next t ∧ exec (.crcRange first last) s = .next t ∧
      crcOfRange s.fb first last = .ok t.crc

/-! ## The frame encoders -/

/-- R132 with R71, R74: FRM.ENCS completes when its payload is written, FB then holds the Simple Frame from index 0, and
every FB byte beyond the frame is as before. -/
def Obligations.FrmEncsBuildsSimpleFrame : Prop :=
  ∀ (s : State) (c l : Byte) (payload : List Byte),
    payload.length = l.toNat → s.pb.holds 0 payload →
    ∃ t : State, exec (.frmEncs c l) s = .next t ∧
      t = { s with
        fb := t.fb
        flen := BitVec.ofNat 16 (l.toNat + 6)
        crc := (c :: l :: payload).foldl crcStep 0xFFFF#16
        status := 0#32 } ∧
      t.fb.holds 0 ([0x55#8, c, l] ++ payload ++ [t.crc.extractLsb' 0 8, t.crc.extractLsb' 8 8, 0xAA#8]) ∧
      ∀ j : Nat, l.toNat + 6 ≤ j → t.fb.read j = s.fb.read j

/-- R133 with R72, R75, R131: FRM.ENCBW completes when its payload is written, FB then holds the Block write frame, and
every FB byte beyond the frame is as before. -/
def Obligations.FrmEncbwBuildsBlockWriteFrame : Prop :=
  ∀ (s : State) (d c n : Byte) (payload : List Byte),
    payload.length = n.toNat → s.pb.holds 0 payload →
    ∃ t : State, exec (.frmEncbw d c n) s = .next t ∧
      t = { s with
        fb := t.fb
        flen := BitVec.ofNat 16 (n.toNat + 7)
        crc := ([d, c, n, BitVec.ofNat 8 (s.baddr.toNat / (if s.asplit then 256 else 512)), s.baddr.extractLsb' 0 8] ++
          payload).foldl crcStep 0xFFFF#16
        status := 0#32 } ∧
      t.fb.holds 0 ([d, c, n, BitVec.ofNat 8 (s.baddr.toNat / (if s.asplit then 256 else 512)),
        s.baddr.extractLsb' 0 8] ++ payload ++ [t.crc.extractLsb' 0 8, t.crc.extractLsb' 8 8]) ∧
      ∀ j : Nat, n.toNat + 7 ≤ j → t.fb.read j = s.fb.read j

/-- R134 with R72, R75, R131: FRM.ENCBR always completes, whatever PB holds; FB then holds the 7-byte Block read frame,
and every FB byte beyond it is as before. -/
def Obligations.FrmEncbrBuildsBlockReadFrame : Prop :=
  ∀ (s : State) (d c n : Byte),
    ∃ t : State, exec (.frmEncbr d c n) s = .next t ∧
      t = { s with
        fb := t.fb
        flen := 7#16
        crc := [d, c, n, BitVec.ofNat 8 (s.baddr.toNat / (if s.asplit then 256 else 512)),
          s.baddr.extractLsb' 0 8].foldl crcStep 0xFFFF#16
        status := 0#32 } ∧
      t.fb.holds 0 [d, c, n, BitVec.ofNat 8 (s.baddr.toNat / (if s.asplit then 256 else 512)),
        s.baddr.extractLsb' 0 8, t.crc.extractLsb' 0 8, t.crc.extractLsb' 8 8] ∧
      ∀ j : Nat, 7 ≤ j → t.fb.read j = s.fb.read j

/-- R73 whole: a Block Frame for a read carries N in byte 2, no payload, and is 7 bytes long whatever N is and whatever
the payload buffer holds. -/
def Obligations.BlockReadFrameOmitsPayload : Prop :=
  ∀ (s : State) (d c n : Byte) (pb : Memory),
    ∃ t : State, exec (.frmEncbr d c n) { s with pb := pb } = .next t ∧ t.flen = 7#16 ∧ t.fb.read 2 = some n ∧
      ∀ j : Nat, 7 ≤ j → t.fb.read j = s.fb.read j

/-- R132 to R134's checksum line, read back from FB: the checksum an encoder appended is crc(FB, s0, …) over its frame's
domain as it now stands in FB. -/
def Obligations.AppendedChecksumIsOfTheDomainInFrameBuffer : Prop :=
  (∀ (s t : State) (c l : Byte), exec (.frmEncs c l) s = .next t →
    crcOfRange t.fb 1 ((l.toNat : Int) + 2) = .ok t.crc) ∧
  (∀ (s t : State) (d c n : Byte), exec (.frmEncbw d c n) s = .next t →
    crcOfRange t.fb 0 ((n.toNat : Int) + 4) = .ok t.crc) ∧
  (∀ (s t : State) (d c n : Byte), exec (.frmEncbr d c n) s = .next t → crcOfRange t.fb 0 4 = .ok t.crc)

/-- R110 (derived in the spec): CRC.VERIFY at the right position accepts every frame the encoders built. -/
def Obligations.EncodedFramesVerify : Prop :=
  (∀ (s t : State) (c l : Byte), exec (.frmEncs c l) s = .next t →
    exec (.crcVerify (l.toNat + 4) .simple) t = .next { t with rcrc := t.crc, status := 0x300#32 }) ∧
  (∀ (s t : State) (d c n : Byte), exec (.frmEncbw d c n) s = .next t ∨ exec (.frmEncbr d c n) s = .next t →
    exec (.crcVerify (t.flen.toNat - 1) .block) t = .next { t with rcrc := t.crc, status := 0x300#32 })

/-! ## The frame decoder -/

/-- R160: FRM.DECS completes on a written, well-formed Simple Frame whatever its checksum (R164) and whatever follows it
(R166), and writes every result register. -/
def Obligations.FrmDecsReportsAcceptedFrame : Prop :=
  ∀ (s : State) (n : Nat) (c l lo hi : Byte) (payload : List Byte),
    payload.length = l.toNat → l.toNat + 6 ≤ n → n ≤ 280 →
    s.fb.holds 0 ([0x55#8, c, l] ++ payload ++ [lo, hi, 0xAA#8]) →
    exec (.frmDecs n) s =
      .next { s with
        crc := (c :: l :: payload).foldl crcStep 0xFFFF#16
        flen := BitVec.ofNat 16 (l.toNat + 6)
        rcmd := c
        rplen := l
        rcrc := hi ++ lo
        status := if (c :: l :: payload).foldl crcStep 0xFFFF#16 = hi ++ lo then 0x300#32 else 0x100#32 }

/-- R162: the malformed frames by their first failing check, each changing STATUS alone: SHORT (n < 6), START, SHORT
(F > n), END. -/
def Obligations.FrmDecsNamesFirstFailingCheck : Prop :=
  (∀ (s : State) (n : Nat), n < 6 → exec (.frmDecs n) s = .next { s with status := 0x13#32 }) ∧
  (∀ (s : State) (n : Nat) (b : Byte), 6 ≤ n → n ≤ 280 → s.fb.read 0 = some b → b ≠ 0x55#8 →
    exec (.frmDecs n) s = .next { s with status := 0x23#32 }) ∧
  (∀ (s : State) (n : Nat) (l : Byte), 6 ≤ n → n ≤ 280 → s.fb.read 0 = some 0x55#8 → s.fb.read 2 = some l →
    n < l.toNat + 6 → exec (.frmDecs n) s = .next { s with status := 0x13#32 }) ∧
  (∀ (s : State) (n : Nat) (l e : Byte), n ≤ 280 → s.fb.read 0 = some 0x55#8 → s.fb.read 2 = some l →
    l.toNat + 6 ≤ n → s.fb.read (l.toNat + 5) = some e → e ≠ 0xAA#8 →
    exec (.frmDecs n) s = .next { s with status := 0x43#32 })

/-- R165 (derived in the spec): FRM.DECS of a frame that FRM.ENCS built gives back its command and length, and the
checksums match. -/
def Obligations.DecodingAnEncodedFrameRoundTrips : Prop :=
  ∀ (s t : State) (c l : Byte), exec (.frmEncs c l) s = .next t →
    exec (.frmDecs (l.toNat + 6)) t =
      .next { t with rcmd := c, rplen := l, rcrc := t.crc, status := 0x300#32 }

/-- R166 whole: when n > F, the bytes beyond the implied end are not read and do not affect the result: with any bytes
there, written or not, the outcome is that of n = F, a stop at an unwritten byte too, and an accepted frame's FLEN is F,
not n. -/
def Obligations.FrmDecsIgnoresBytesBeyondFrame : Prop :=
  ∀ (s : State) (m : Memory) (n : Nat) (l : Byte),
    s.fb.read 2 = some l → l.toNat + 6 < n → n ≤ 280 → (∀ j : Nat, j < l.toNat + 6 → m.read j = s.fb.read j) →
    (∀ t : State, exec (.frmDecs (l.toNat + 6)) s = .next t →
      exec (.frmDecs n) { s with fb := m } = .next { t with fb := m } ∧
      (statusErr t.status = 0#4 → t.flen = BitVec.ofNat 16 (l.toNat + 6))) ∧
    (∀ r : Fault, exec (.frmDecs (l.toNat + 6)) s = .fault r → exec (.frmDecs n) { s with fb := m } = .fault r)

/-- R163 (derived in the spec): no command ever reports OVERSIZE. -/
def Obligations.OversizeIsNeverReported : Prop :=
  ∀ (i : Instr) (s t : State), exec i s = .next t → statusReason t.status ≠ 3#3

/-! ## Rules over all commands -/

/-- R184 whole: a command that fails, an illegal word's included, writes STATUS and nothing else, and a BusError access
changes no state of TMFC (the answer and the fault mark are the model's own: log entries 2 and 4). -/
def Obligations.FailuresArePrecise : Prop :=
  (∀ (i : Instr) (s t : State), exec i s = .next t → statusErr t.status ≠ 0#4 → t = { s with status := t.status }) ∧
  (∀ (w : Word) (s t : State), issueCommand w s = .next t → statusErr t.status ≠ 0#4 →
    t = { s with status := t.status }) ∧
  (∀ (a : PortAddr) (width : Width) (s t : State), admittedWidth a ≠ some width → hostRead a width s = .next t →
    t = { s with response := t.response, fault := t.fault }) ∧
  (∀ (a : PortAddr) (data : WriteData) (s t : State), admittedWidth a ≠ some data.width →
    hostWrite a data s = .next t → t = { s with response := t.response, fault := t.fault })

/-- R24, R30, R32: no command writes CTRL, BADDR or PB, nor any of the model's own fields. -/
def Obligations.CommandsLeaveOperandStateUnchanged : Prop :=
  ∀ (i : Instr) (s t : State), exec i s = .next t →
    t.pb = s.pb ∧ t.asplit = s.asplit ∧ t.baddr = s.baddr ∧ t.fault = s.fault ∧ t.inputs = s.inputs ∧
      t.response = s.response

/-- R31, R130: only the encode commands write FB, and none writes it at index FLEN or above. -/
def Obligations.OnlyEncodersWriteFrameBuffer : Prop :=
  ∀ (i : Instr) (s t : State), exec i s = .next t →
    (∀ j : Nat, t.flen.toNat ≤ j → t.fb.read j = s.fb.read j) ∧
    ((∀ c l : Byte, i ≠ .frmEncs c l) → (∀ d c n : Byte, i ≠ .frmEncbw d c n) →
      (∀ d c n : Byte, i ≠ .frmEncbr d c n) → t.fb = s.fb)

/-- R29, R33 to R35: RCMD and RPLEN change only by FRM.DECS, RCRC only by FRM.DECS and CRC.VERIFY, FLEN only by the
encode commands and FRM.DECS. -/
def Obligations.ResultRegistersHaveOnlyTheirWriters : Prop :=
  ∀ (i : Instr) (s t : State), exec i s = .next t →
    ((∀ n : Nat, i ≠ .frmDecs n) → t.rcmd = s.rcmd ∧ t.rplen = s.rplen) ∧
    ((∀ n : Nat, i ≠ .frmDecs n) → (∀ (p : Nat) (v : Variant), i ≠ .crcVerify p v) → t.rcrc = s.rcrc) ∧
    ((∀ n : Nat, i ≠ .frmDecs n) → (∀ c l : Byte, i ≠ .frmEncs c l) → (∀ d c n : Byte, i ≠ .frmEncbw d c n) →
      (∀ d c n : Byte, i ≠ .frmEncbr d c n) → t.flen = s.flen)

/-- R37 whole: CRC.VERIFY and FRM.DECS that do not fail set CKDONE, with CKMATCH the comparison of the computed checksum
(left in CRC) and the received one (left in RCRC); every other command, every failing one and an illegal word clear both
flags; no command reads STATUS; both flags are 0 at reset. -/
def Obligations.CheckFlagsComeFromAComparison : Prop :=
  (∀ (w : Word) (s t : State), issueCommand w s = .next t →
    (statusCkdone t.status = true ↔ statusErr t.status = 0#4 ∧
      ((∃ p v, decode w = .ok (.crcVerify p v)) ∨ ∃ n, decode w = .ok (.frmDecs n))) ∧
    (statusCkdone t.status = true → (statusCkmatch t.status = true ↔ t.crc = t.rcrc)) ∧
    (statusCkdone t.status = false → statusCkmatch t.status = false)) ∧
  (∀ (w : Word) (s : State) (st : Word), issueCommand w { s with status := st } = issueCommand w s) ∧
  statusCkdone State.reset.status = false ∧ statusCkmatch State.reset.status = false

/-- R37, R38, R68: every result a command writes (FB, STATUS, CRC, RCRC, FLEN, RCMD, RPLEN), and whether and where it
stops, depends on FB, PB, ASPLIT and BADDR, and on the accumulator for CRC.BYTE alone. It never depends on STATUS or the
result registers, so two states that differ there give the same results. -/
def Obligations.CommandsReadOnlyTheirInputs : Prop :=
  ∀ (i : Instr) (s u : State),
    s.fb = u.fb → s.pb = u.pb → s.asplit = u.asplit → s.baddr = u.baddr → (∀ a, i = .crcByte a → s.crc = u.crc) →
    (∀ t, exec i s = .next t → ∃ t', exec i u = .next t' ∧ t'.status = t.status ∧ t'.fb = t.fb ∧
      (statusErr t.status = 0#4 → t'.crc = t.crc) ∧ (statusCkdone t.status = true → t'.rcrc = t.rcrc) ∧
      ((∃ c l, i = .frmEncs c l) ∨ (∃ d c n, i = .frmEncbw d c n) ∨ (∃ d c n, i = .frmEncbr d c n) →
        t'.flen = t.flen) ∧
      (∀ n, i = .frmDecs n → statusErr t.status = 0#4 →
        t'.flen = t.flen ∧ t'.rcmd = t.rcmd ∧ t'.rplen = t.rplen)) ∧
    (∀ r, exec i s = .fault r → exec i u = .fault r)

/-- R69, R183: a command stops only at an unwritten byte of FB or PB, which the fault names, and no command is refused.
That an unwritten byte has no value is the spec's treatment U1 (log entry 1). -/
def Obligations.CommandsFaultOnlyAtUnwrittenBytes : Prop :=
  ∀ (i : Instr) (s : State),
    (∀ r, exec i s = .fault r →
      (∃ k, r = .unwrittenFrame k ∧ k < 280 ∧ s.fb.read k = none) ∨
      (∃ k, r = .unwrittenPayload k ∧ k < 255 ∧ s.pb.read k = none)) ∧
    (∀ r, exec i s ≠ .refused r)

/-- R69, R183: CRC.RANGE, CRC.VERIFY, FRM.ENCS and FRM.ENCBW stop at the first unwritten byte of those they read. That
ascending order decides which byte the fault names is log entry 7. -/
def Obligations.UnwrittenByteStopsCommand : Prop :=
  (∀ (s : State) (first last k : Nat), last < 280 → first ≤ k → k ≤ last → s.fb.read k = none →
    (∀ j, first ≤ j → j < k → s.fb.read j ≠ none) →
    exec (.crcRange first last) s = .fault (.unwrittenFrame k)) ∧
  (∀ (s : State) (p : Nat) (v : Variant) (k : Nat), 1 ≤ p → p < 280 →
    min (p - 1) (if v = .block then 0 else 1) ≤ k → k ≤ p → s.fb.read k = none →
    (∀ j, min (p - 1) (if v = .block then 0 else 1) ≤ j → j < k → s.fb.read j ≠ none) →
    exec (.crcVerify p v) s = .fault (.unwrittenFrame k)) ∧
  (∀ (s : State) (c l : Byte) (k : Nat), k < l.toNat → s.pb.read k = none → (∀ j, j < k → s.pb.read j ≠ none) →
    exec (.frmEncs c l) s = .fault (.unwrittenPayload k)) ∧
  (∀ (s : State) (d c n : Byte) (k : Nat), k < n.toNat → s.pb.read k = none → (∀ j, j < k → s.pb.read j ≠ none) →
    exec (.frmEncbw d c n) s = .fault (.unwrittenPayload k))

/-- R69, R162, R183: FRM.DECS stops at an unwritten byte when its checks reach it: FB[0], then FB[2], then FB[F-1], then
the first unwritten byte of FB[1..F-2] (log entries 1 and 7). -/
def Obligations.UnwrittenByteStopsDecoder : Prop :=
  (∀ (s : State) (n : Nat), 6 ≤ n → n ≤ 280 → s.fb.read 0 = none →
    exec (.frmDecs n) s = .fault (.unwrittenFrame 0)) ∧
  (∀ (s : State) (n : Nat), 6 ≤ n → n ≤ 280 → s.fb.read 0 = some 0x55#8 → s.fb.read 2 = none →
    exec (.frmDecs n) s = .fault (.unwrittenFrame 2)) ∧
  (∀ (s : State) (n : Nat) (l : Byte), l.toNat + 6 ≤ n → n ≤ 280 → s.fb.read 0 = some 0x55#8 →
    s.fb.read 2 = some l → s.fb.read (l.toNat + 5) = none →
    exec (.frmDecs n) s = .fault (.unwrittenFrame (l.toNat + 5))) ∧
  (∀ (s : State) (n : Nat) (l : Byte) (k : Nat), l.toNat + 6 ≤ n → n ≤ 280 → s.fb.read 0 = some 0x55#8 →
    s.fb.read 2 = some l → s.fb.read (l.toNat + 5) = some 0xAA#8 → 1 ≤ k → k ≤ l.toNat + 4 → s.fb.read k = none →
    (∀ j, 1 ≤ j → j < k → s.fb.read j ≠ none) → exec (.frmDecs n) s = .fault (.unwrittenFrame k))

/-! ## The command word -/

/-- R80 to R87: the decoder gives back every well-formed command from its word, with every operand. -/
def Obligations.DecodeOfEncodeIsTheCommand : Prop :=
  ∀ i : Instr, i.wf = true → decode (encode i) = .ok i

/-- R80 to R87: a word that decodes is the encoding of the well-formed command it decodes to, so no bit of it is
dropped. -/
def Obligations.EncodeOfDecodeIsTheWord : Prop :=
  ∀ (w : Word) (i : Instr), decode w = .ok i → i.wf = true ∧ encode i = w

/-- R88: at most one row of the opcode map selects a word; a word that decodes is selected by its command's row, and a
word is illegal exactly when no row selects it. -/
def Obligations.DecoderFollowsOpcodeMap : Prop :=
  ∀ w : Word,
    (opcodeMap.filter fun r => r.selects w).length ≤ 1 ∧
    (∀ i, decode w = .ok i → ∃ r ∈ opcodeMap, r.mnemonic = mnemonicOf i ∧ r.selects w = true) ∧
    ((∃ e, decode w = .error e) ↔ ∀ r ∈ opcodeMap, r.selects w = false)

/-- Words of 95_test_vectors.md decode to the commands they stand for. -/
def Obligations.SampleWordsDecode : Prop :=
  decode 0x00000001#32 = .ok .crcInit ∧
  decode 0x00003102#32 = .ok (.crcByte 0x31#8) ∧
  decode 0x02572C03#32 = .ok (.crcRange 300 299) ∧
  decode 0x00030504#32 = .ok (.crcVerify 261 .block) ∧
  decode 0x00FF4210#32 = .ok (.frmEncs 0x42#8 0xFF#8) ∧
  decode 0x01021011#32 = .ok (.frmEncbw 0x01#8 0x10#8 0x02#8) ∧
  decode 0x01100312#32 = .ok (.frmEncbr 0x01#8 0x03#8 0x10#8) ∧
  decode 0x00011920#32 = .ok (.frmDecs 281)

/-- R90 whole: a word with an unassigned opcode or a nonzero reserved field, 0x0000_0000 among them, runs
fail(ILLEGAL, 0): STATUS.ERR = 1 and no other state changes. -/
def Obligations.IllegalWordReportsIllegal : Prop :=
  (∀ (w : Word) (s : State),
    (w.extractLsb' 0 8 ∉ [0x01#8, 0x02#8, 0x03#8, 0x04#8, 0x10#8, 0x11#8, 0x12#8, 0x20#8] ∨
      (w.extractLsb' 0 8 = 0x01#8 ∧ w.extractLsb' 8 24 ≠ 0#24) ∨
      (w.extractLsb' 0 8 = 0x02#8 ∧ w.extractLsb' 16 16 ≠ 0#16) ∨
      (w.extractLsb' 0 8 = 0x03#8 ∧ w.extractLsb' 26 6 ≠ 0#6) ∨
      (w.extractLsb' 0 8 = 0x04#8 ∧ w.extractLsb' 18 14 ≠ 0#14) ∨
      (w.extractLsb' 0 8 = 0x10#8 ∧ w.extractLsb' 24 8 ≠ 0#8) ∨
      (w.extractLsb' 0 8 = 0x20#8 ∧ w.extractLsb' 17 15 ≠ 0#15)) →
    issueCommand w s = .next { s with status := 1#32 }) ∧
  (∀ s : State, issueCommand 0x00000000#32 s = .next { s with status := 1#32 })

/-! ## The step and the host port -/

/-- R36, R60: when the next input is a CMD write whose word decodes to a command, the step is that command's exec, in the
state where the input is consumed and the write is answered (log entries 3 and 4). -/
def Obligations.StepRunsTheDecodedCommand : Prop :=
  ∀ (s : State) (w : Word) (i : Instr) (rest : List Input),
    s.inputs = .write 0x320#10 (.d32 w) :: rest → decode w = .ok i →
    step s = exec i { s with inputs := rest, response := some .written }

/-- R36, R79: a well-formed command's word, placed where the step takes its next command, runs that command. The placing
is the model's (log entry 3). -/
def Obligations.PlacedCommandRunsNext : Prop :=
  ∀ (s : State) (i : Instr), i.wf = true →
    step (s.withFetchWord 32 (encode i).toNat) = exec i { s with response := some .written } ∧
    step { s with inputs := expandOp (.command i) ++ s.inputs } = exec i { s with response := some .written }

/-- R60, R61: a step that goes on has served exactly the first pending input; a step with nothing pending changes nothing
(R212; log entry 5). -/
def Obligations.StepServesInputsInOrder : Prop :=
  (∀ (s t : State) (x : Input) (rest : List Input), s.inputs = x :: rest → step s = .next t → t.inputs = rest) ∧
  (∀ s : State, s.inputs = [] → step s = .next s)

/-- R53, R54, R60: when the next input is a host read or write, the step is that access, in the state where the input is
consumed (log entry 3). -/
def Obligations.StepServesTheHostAccess : Prop :=
  (∀ (s : State) (a : PortAddr) (width : Width) (rest : List Input), s.inputs = .read a width :: rest →
    step s = hostRead a width { s with inputs := rest }) ∧
  (∀ (s : State) (a : PortAddr) (data : WriteData) (rest : List Input), s.inputs = .write a data :: rest →
    step s = hostWrite a data { s with inputs := rest })

/-- R54 whole, at the addresses of R22: a 32-bit read of a register returns its value, reserved bits and CMD as zero, and
changes nothing; a 32-bit write reaches CTRL[0] and BADDR[15:0] alone, changes nothing at a read-only register (R23), and
at CMD is issued as a command. -/
def Obligations.RegisterAccessesFollowTheirAttributes : Prop :=
  ∀ (s : State) (v : Word),
    hostRead 0x300#10 .w32 s = .next { s with response := some (.word (if s.asplit then 1#32 else 0#32)) } ∧
    hostRead 0x304#10 .w32 s = .next { s with response := some (.word s.status) } ∧
    hostRead 0x308#10 .w32 s = .next { s with response := some (.word (0#16 ++ s.crc)) } ∧
    hostRead 0x30C#10 .w32 s = .next { s with response := some (.word (0#16 ++ s.flen)) } ∧
    hostRead 0x310#10 .w32 s = .next { s with response := some (.word (0#16 ++ s.baddr)) } ∧
    hostRead 0x314#10 .w32 s = .next { s with response := some (.word (0#24 ++ s.rcmd)) } ∧
    hostRead 0x318#10 .w32 s = .next { s with response := some (.word (0#24 ++ s.rplen)) } ∧
    hostRead 0x31C#10 .w32 s = .next { s with response := some (.word (0#16 ++ s.rcrc)) } ∧
    hostRead 0x320#10 .w32 s = .next { s with response := some (.word 0#32) } ∧
    hostWrite 0x300#10 (.d32 v) s = .next { s with asplit := v.getLsbD 0, response := some .written } ∧
    hostWrite 0x310#10 (.d32 v) s = .next { s with baddr := v.extractLsb' 0 16, response := some .written } ∧
    (∀ a ∈ [0x304#10, 0x308#10, 0x30C#10, 0x314#10, 0x318#10, 0x31C#10],
      hostWrite a (.d32 v) s = .next { s with response := some .written }) ∧
    hostWrite 0x320#10 (.d32 v) s = issueCommand v { s with response := some .written }

/-- R53 whole: an 8-bit read in a buffer window returns its byte, and in the model faults if that byte is unwritten; an
8-bit write sets that byte alone and marks it written; neither changes a register or starts a command. -/
def Obligations.BufferAccessesReachOneByte : Prop :=
  (∀ (s : State) (a : PortAddr) (v : Byte), a.toNat ≤ 0x117 →
    (s.fb.read a.toNat = some v → hostRead a .w8 s = .next { s with response := some (.byte v) }) ∧
    (s.fb.read a.toNat = none → hostRead a .w8 s = .fault (.unwrittenFrame a.toNat)) ∧
    ∃ t : State, hostWrite a (.d8 v) s = .next t ∧ t = { s with fb := t.fb, response := some .written } ∧
      t.fb.read a.toNat = some v ∧ ∀ j : Nat, j ≠ a.toNat → t.fb.read j = s.fb.read j) ∧
  (∀ (s : State) (a : PortAddr) (v : Byte), 0x200 ≤ a.toNat → a.toNat ≤ 0x2FE →
    (s.pb.read (a.toNat - 0x200) = some v → hostRead a .w8 s = .next { s with response := some (.byte v) }) ∧
    (s.pb.read (a.toNat - 0x200) = none → hostRead a .w8 s = .fault (.unwrittenPayload (a.toNat - 0x200))) ∧
    ∃ t : State, hostWrite a (.d8 v) s = .next t ∧ t = { s with pb := t.pb, response := some .written } ∧
      t.pb.read (a.toNat - 0x200) = some v ∧ ∀ j : Nat, j ≠ a.toNat - 0x200 → t.pb.read j = s.pb.read j)

/-- R55 whole: an access that R53 and R54 do not cover raises BusError: an error response with the address and no data,
the fault mark set, no state of TMFC changed (the answer is the model's own field: log entry 4). -/
def Obligations.NotAdmittedAccessRaisesBusError : Prop :=
  (∀ (s : State) (a : PortAddr) (width : Width), admittedWidth a ≠ some width →
    ∃ t : State, hostRead a width s = .next t ∧ t.response = some (.busError a) ∧ t.fault ≠ none ∧
      t = { s with response := t.response, fault := t.fault }) ∧
  (∀ (s : State) (a : PortAddr) (data : WriteData), admittedWidth a ≠ some data.width →
    ∃ t : State, hostWrite a data s = .next t ∧ t.response = some (.busError a) ∧ t.fault ≠ none ∧
      t = { s with response := t.response, fault := t.fault }) ∧
  (∀ a : PortAddr,
    (admittedWidth a = some .w8 ↔ a.toNat ≤ 0x117 ∨ (0x200 ≤ a.toNat ∧ a.toNat ≤ 0x2FE)) ∧
    (admittedWidth a = some .w32 ↔ 0x300 ≤ a.toNat ∧ a.toNat ≤ 0x320 ∧ a.toNat % 4 = 0) ∧ admittedWidth a ≠ some .w16)

/-- R56 whole: host reads have no side effect and repeat their answer; writes to FB, PB, CTRL and BADDR are idempotent;
a CMD write runs its command each time, so that writing a word twice is not writing it once. -/
def Obligations.HostAccessSideEffects : Prop :=
  (∀ (s t : State) (a : PortAddr) (width : Width), hostRead a width s = .next t →
    t = { s with response := t.response, fault := t.fault } ∧ hostRead a width t = .next t) ∧
  (∀ (s t : State) (a : PortAddr) (data : WriteData), a ≠ 0x320#10 → hostWrite a data s = .next t →
    hostWrite a data t = .next t) ∧
  (∀ (s : State) (w : Word), hostWrite 0x320#10 (.d32 w) s = issueCommand w { s with response := some .written }) ∧
  (∃ (s t u : State) (w : Word), hostWrite 0x320#10 (.d32 w) s = .next t ∧ hostWrite 0x320#10 (.d32 w) t = .next u ∧
    u ≠ t)

/-- R39, R185: of the steps that go on to a next state, none but the reset input clears or changes a fault mark once
set, and only a BusError sets it. R39 and R69 say that an unwritten read sets it too: the model stops such a step with
Outcome.fault instead of going on with the mark set (log entry 1). Which reason is kept, and that reset clears the mark,
are log entries 2 and 6. -/
def Obligations.FaultMarkIsStickyAndComesFromBusError : Prop :=
  (∀ (s t : State), step s = .next t → s.inputs.head? ≠ some .reset → s.fault ≠ none → t.fault = s.fault) ∧
  (∀ (s t : State), step s = .next t → s.fault = none → t.fault ≠ none →
    ∃ a, t.fault = some (.busError a) ∧ t.response = some (.busError a))

/-- R93: PB.LOAD and FB.LOAD, run access by access, leave their bytes in the buffer and every other index as before. -/
def Obligations.BufferLoadsFillTheBuffer : Prop :=
  (∀ (s : State) (i : Nat) (bytes : List Byte) (rest : List Input), i + bytes.length ≤ 255 →
    ∃ t : State, Host.Core.run core bytes.length { s with inputs := expandOp (.pbLoad i bytes) ++ rest } = .next t ∧
      t = { s with pb := t.pb, inputs := rest, response := t.response } ∧ t.pb.holds i bytes ∧
      ∀ j : Nat, j < i ∨ i + bytes.length ≤ j → t.pb.read j = s.pb.read j) ∧
  (∀ (s : State) (i : Nat) (bytes : List Byte) (rest : List Input), i + bytes.length ≤ 280 →
    ∃ t : State, Host.Core.run core bytes.length { s with inputs := expandOp (.fbLoad i bytes) ++ rest } = .next t ∧
      t = { s with fb := t.fb, inputs := rest, response := t.response } ∧ t.fb.holds i bytes ∧
      ∀ j : Nat, j < i ∨ i + bytes.length ≤ j → t.fb.read j = s.fb.read j)

/-- R67: the platform's TMFC_BASE, whatever it is, gives every port address its own host address, and none outside the
window of 1024 bytes reaches the port (log entry 8). -/
def Obligations.HostWindowIsOneToOne : Prop :=
  (∀ a : PortAddr, portAddressOf (hostAddress a) = some a) ∧
  (∀ (h : Nat) (a : PortAddr), portAddressOf h = some a → h = hostAddress a)

/-! ## Reset and the invariant -/

/-- R210 with the values of R211: the state after reset, and the reset input, which leaves that state whatever the
machine held (the inputs still to come are the model's own: log entry 6). -/
def Obligations.ResetLeavesTheResetValues : Prop :=
  (∀ j : Nat, State.reset.fb.read j = none ∧ State.reset.pb.read j = none) ∧
  State.reset.asplit = false ∧ State.reset.status = 0#32 ∧ State.reset.crc = 0xFFFF#16 ∧ State.reset.flen = 0#16 ∧
  State.reset.baddr = 0#16 ∧ State.reset.rcmd = 0#8 ∧ State.reset.rplen = 0#8 ∧ State.reset.rcrc = 0#16 ∧
  State.reset.fault = none ∧
  (∀ (s : State) (rest : List Input), s.inputs = .reset :: rest → step s = .next { State.reset with inputs := rest })

/-- The reset state is legal, and good in R199's sense (R25, R29, R31, R32, R199, R211). -/
def Obligations.ResetStateIsLegal : Prop :=
  State.reset.legal = true ∧ State.reset.good = true

/-- R25, R29, R31, R32: from every legal state, whatever the host does next, a step that goes on leaves a legal state:
buffers in canonical form and inside their sizes, STATUS at a legal value with its reserved bits zero, FLEN in
0..280. -/
def Obligations.StepKeepsStatesLegal : Prop :=
  ∀ s t : State, s.legal = true → step s = .next t → t.legal = true
end

