-- ==== Sys2Proof/Laws/Decode.lean ====
section
/-! SUPPORT. Fields and joined bits of a command word as numbers, and when a word with a reserved field is accepted. -/

namespace Sys2Proof

/-- Joined bits as a number. -/
theorem append_toNat {n m : Nat} (x : BitVec n) (y : BitVec m) : (x ++ y).toNat = x.toNat * 2 ^ m + y.toNat := by
  rw [BitVec.toNat_append, ← Nat.shiftLeft_add_eq_or_of_lt y.isLt, Nat.shiftLeft_eq]

/-- A field of a word as a number. -/
theorem wordField_toNat (w : Word) (lo len : Nat) : (wordField w lo len).toNat = w.toNat / 2 ^ lo % 2 ^ len := by
  rw [wordField, BitVec.extractLsb'_toNat, Nat.shiftRight_eq_div_pow]

/-- The opcode as a number. -/
theorem opcodeOf_toNat (w : Word) : (opcodeOf w).toNat = w.toNat % 256 := by
  simp [opcodeOf, wordField_toNat]

/-- A command is accepted exactly when its format's reserved field is zero (R90). -/
theorem ifReservedZero_ok_iff (w : Word) {len : Nat} (r : BitVec len) (i j : Instr) :
    ifReservedZero w r i = .ok j ↔ r = 0#len ∧ j = i := by
  unfold ifReservedZero
  split <;> simp [*, eq_comm]

end Sys2Proof
end

