-- ==== Sys2Proof/Laws/Memory.lean ====
section
/-! SUPPORT. The laws of a buffer: a write is read back and leaves every other index alone, every write keeps the
canonical form, and what reading a run of bytes answers. -/

namespace Sys2Proof.Machine

@[simp] theorem Memory.read_nil (i : Nat) : Memory.read [] i = none := rfl

theorem Memory.read_write_same (m : Memory) (i : Nat) (v : Byte) : (m.write i v).read i = some v := by
  induction m with
  | nil => simp [Memory.write, Memory.read]
  | cons cell rest ih =>
    unfold Memory.write
    split
    · simp [Memory.read]
    · split
      · simp [Memory.read]
      · next h => simp [Memory.read, Ne.symm h, ih]

theorem Memory.read_write_other (m : Memory) (i j : Nat) (v : Byte) (h : j ≠ i) :
    (m.write i v).read j = m.read j := by
  induction m with
  | nil => simp [Memory.write, Memory.read, Ne.symm h, Memory.unwritten]
  | cons cell rest ih =>
    unfold Memory.write
    split
    · simp [Memory.read, Ne.symm h]
    · split
      · next h' => simp [Memory.read, Ne.symm h, ← h']
      · simp only [Memory.read, ih]

/-- One write, at every index. -/
theorem Memory.read_write (m : Memory) (i j : Nat) (v : Byte) :
    (m.write i v).read j = if j = i then some v else m.read j := by
  split
  · next h => rw [h, Memory.read_write_same]
  · next h => exact Memory.read_write_other m i j v h

/-- A run of writes, at every index. -/
theorem Memory.read_writeBytes (m : Memory) (i j : Nat) (bytes : List Byte) :
    (m.writeBytes i bytes).read j =
      if i ≤ j ∧ j < i + bytes.length then bytes[j - i]? else m.read j := by
  induction bytes generalizing m i with
  | nil => simp [Memory.writeBytes, show ¬ (i ≤ j ∧ j < i) by omega]
  | cons v rest ih =>
    simp only [Memory.writeBytes, ih, Memory.read_write, List.length_cons]
    by_cases hj : j = i
    · simp [hj]
    · by_cases hin : i + 1 ≤ j ∧ j < i + 1 + rest.length
      · have : j - i = j - (i + 1) + 1 := by omega
        rw [if_pos hin, if_pos (by omega), this, List.getElem?_cons_succ]
      · rw [if_neg hin, if_neg hj, if_neg (by omega)]

theorem Memory.wfFrom_write (size lo : Nat) (m : Memory) (i : Nat) (v : Byte)
    (h : m.wfFrom size lo = true) (hlo : lo ≤ i) (hi : i < size) : (m.write i v).wfFrom size lo = true := by
  induction m generalizing lo with
  | nil => simp [Memory.write, Memory.wfFrom, hlo, hi]
  | cons cell rest ih =>
    simp only [Memory.wfFrom, Bool.and_eq_true, decide_eq_true_eq] at h
    obtain ⟨⟨h1, h2⟩, h3⟩ := h
    unfold Memory.write
    split
    · next hlt => simp [Memory.wfFrom, hlo, hi, h2, h3, Nat.succ_le_of_lt hlt]
    · split
      · next heq => simp [Memory.wfFrom, heq, h1, h2, h3]
      · simp [Memory.wfFrom, h1, h2, ih (cell.1 + 1) h3 (by omega)]

/-- A write inside the buffer keeps its canonical form. -/
theorem Memory.wf_write (size : Nat) (m : Memory) (i : Nat) (v : Byte) (h : m.wf size = true) (hi : i < size) :
    (m.write i v).wf size = true :=
  Memory.wfFrom_write size 0 m i v h (Nat.zero_le i) hi

/-- A run of writes inside the buffer keeps its canonical form. -/
theorem Memory.wf_writeBytes (size : Nat) (m : Memory) (i : Nat) (bytes : List Byte) (h : m.wf size = true)
    (hi : i + bytes.length ≤ size) : (m.writeBytes i bytes).wf size = true := by
  induction bytes generalizing m i with
  | nil => exact h
  | cons v rest ih =>
    simp only [List.length_cons] at hi
    exact ih (m.write i v) (i + 1) (Memory.wf_write size m i v h (by omega)) (by omega)

/-- The buffers after reset are in canonical form. -/
theorem Memory.wf_reset : State.reset.fb.wf Config.fbSize = true ∧ State.reset.pb.wf Config.pbSize = true :=
  ⟨rfl, rfl⟩

/-- One step of a write, at the first cell. -/
theorem Memory.write_cons (cell : Host.Cell) (rest : Memory) (i : Nat) (v : Byte) :
    Memory.write (cell :: rest) i v =
      if i < cell.1 then (i, v) :: cell :: rest
      else if i = cell.1 then (i, v) :: rest
      else cell :: Memory.write rest i v := rfl

/-- Writing the same byte twice is writing it once. -/
theorem Memory.write_write_same (m : Memory) (i : Nat) (v : Byte) : (m.write i v).write i v = m.write i v := by
  induction m with
  | nil => show Memory.write [(i, v)] i v = [(i, v)]; simp [Memory.write_cons]
  | cons cell rest ih =>
    rw [Memory.write_cons]
    split
    · simp [Memory.write_cons]
    · split
      · simp [Memory.write_cons]
      · next h1 h2 => rw [Memory.write_cons, if_neg h1, if_neg h2, ih]

/-- What reading one byte answers. -/
theorem Memory.readByte_ok_iff (m : Memory) (i : Nat) (v : Byte) : m.readByte i = .ok v ↔ m.read i = some v := by
  unfold Memory.readByte
  cases Memory.read m i <;> simp

theorem Memory.readByte_error_iff (m : Memory) (i k : Nat) : m.readByte i = .error k ↔ m.read i = none ∧ k = i := by
  unfold Memory.readByte
  cases Memory.read m i <;> simp [eq_comm]

/-- A run of reads answers bytes exactly when those bytes stand at its indices. -/
theorem Memory.readBytes_ok_iff (m : Memory) (i count : Nat) (bytes : List Byte) :
    m.readBytes i count = .ok bytes ↔
      bytes.length = count ∧ ∀ k (h : k < bytes.length), m.read (i + k) = some bytes[k] := by
  induction count generalizing i bytes with
  | zero => cases bytes <;> simp [Memory.readBytes]
  | succ n ih =>
    unfold Memory.readBytes
    cases bytes with
    | nil =>
      simp only [List.length_nil, Nat.right_eq_add, Nat.add_eq_zero_iff, one_ne_zero, and_false, false_and, iff_false]
      split <;> [simp; (split <;> simp)]
    | cons v rest =>
      have key : (∀ k (h : k < (v :: rest).length), m.read (i + k) = some (v :: rest)[k]) ↔
          m.read i = some v ∧ ∀ k (h : k < rest.length), m.read (i + 1 + k) = some rest[k] := by
        constructor
        · intro h
          refine ⟨h 0 (by simp), fun k hk => ?_⟩
          have := h (k + 1) (by simp; omega)
          rwa [List.getElem_cons_succ, show i + (k + 1) = i + 1 + k by omega] at this
        · rintro ⟨h0, hs⟩ k hk
          cases k with
          | zero => simpa using h0
          | succ k =>
            rw [List.getElem_cons_succ, show i + (k + 1) = i + 1 + k by omega]
            exact hs k (by simpa using hk)
      rw [key]
      cases hv : Memory.read m i with
      | none => simp
      | some u =>
        have := ih (i + 1) rest
        cases hr : Memory.readBytes m (i + 1) n with
        | error k =>
          rw [hr] at this
          simp only [reduceCtorEq, false_iff, List.length_cons, Nat.add_right_cancel_iff] at this ⊢
          tauto
        | ok bs =>
          have h2 := ih (i + 1) bs
          rw [hr] at this h2
          simp only [Except.ok.injEq, List.cons.injEq, List.length_cons, Nat.add_right_cancel_iff, Option.some.injEq] at *
          tauto

/-- A run of reads answers an index exactly when that index is the first unwritten one of the run. -/
theorem Memory.readBytes_error_iff (m : Memory) (i count k : Nat) :
    m.readBytes i count = .error k ↔
      i ≤ k ∧ k < i + count ∧ m.read k = none ∧ ∀ j, i ≤ j → j < k → m.read j ≠ none := by
  induction count generalizing i with
  | zero => simp [Memory.readBytes]; omega
  | succ n ih =>
    unfold Memory.readBytes
    cases hv : Memory.read m i with
    | none =>
      simp only [Except.error.injEq]
      constructor
      · rintro rfl
        exact ⟨le_rfl, by omega, hv, fun j h1 h2 => by omega⟩
      · rintro ⟨h1, h2, h3, h4⟩
        by_contra hne
        exact h4 i le_rfl (by omega) hv
    | some u =>
      have hk : Memory.readBytes m (i + 1) n = .error k ↔
          i ≤ k ∧ k < i + (n + 1) ∧ m.read k = none ∧ ∀ j, i ≤ j → j < k → m.read j ≠ none := by
        rw [ih (i + 1)]
        constructor
        · rintro ⟨h1, h2, h3, h4⟩
          refine ⟨by omega, by omega, h3, fun j hj1 hj2 => ?_⟩
          by_cases hji : j = i
          · simp [hji, hv]
          · exact h4 j (by omega) hj2
        · rintro ⟨h1, h2, h3, h4⟩
          have : k ≠ i := by rintro rfl; simp [hv] at h3
          exact ⟨by omega, by omega, h3, fun j hj1 hj2 => h4 j (by omega) hj2⟩
      rw [← hk]
      cases hr : Memory.readBytes m (i + 1) n <;> simp

/-- The bytes of a run read back, from the bytes just written there. -/
theorem Memory.readBytes_writeBytes (m : Memory) (i : Nat) (bytes : List Byte) :
    (m.writeBytes i bytes).readBytes i bytes.length = .ok bytes := by
  rw [Memory.readBytes_ok_iff]
  refine ⟨rfl, fun k h => ?_⟩
  rw [Memory.read_writeBytes, if_pos (by omega), Nat.add_sub_cancel_left, List.getElem?_eq_getElem h]

/-- A checksum of a range, from the range's bytes. -/
theorem crcOfRange_ok (m : Memory) (s : Nat) (e : Int) (bytes : List Byte)
    (h : m.readBytes s (rangeCount s e) = .ok bytes) : crcOfRange m s e = .ok (crcOfBytes bytes) := by
  simp [crcOfRange, h]

end Sys2Proof.Machine
end

