-- ==== Sys2Proof/Laws/State.lean ====
section
/-! SUPPORT. What each register update does to each field of State: the field it names takes the value, every other
field stays. -/

namespace Sys2Proof.Machine

section
variable (s : State) (v : Memory)
@[simp] theorem State.setFb_fb : (s.setFb v).fb = v := rfl
@[simp] theorem State.setFb_pb : (s.setFb v).pb = s.pb := rfl
@[simp] theorem State.setFb_asplit : (s.setFb v).asplit = s.asplit := rfl
@[simp] theorem State.setFb_status : (s.setFb v).status = s.status := rfl
@[simp] theorem State.setFb_crc : (s.setFb v).crc = s.crc := rfl
@[simp] theorem State.setFb_flen : (s.setFb v).flen = s.flen := rfl
@[simp] theorem State.setFb_baddr : (s.setFb v).baddr = s.baddr := rfl
@[simp] theorem State.setFb_rcmd : (s.setFb v).rcmd = s.rcmd := rfl
@[simp] theorem State.setFb_rplen : (s.setFb v).rplen = s.rplen := rfl
@[simp] theorem State.setFb_rcrc : (s.setFb v).rcrc = s.rcrc := rfl
@[simp] theorem State.setFb_fault : (s.setFb v).fault = s.fault := rfl
@[simp] theorem State.setFb_inputs : (s.setFb v).inputs = s.inputs := rfl
@[simp] theorem State.setFb_response : (s.setFb v).response = s.response := rfl
end

section
variable (s : State) (v : Memory)
@[simp] theorem State.setPb_fb : (s.setPb v).fb = s.fb := rfl
@[simp] theorem State.setPb_pb : (s.setPb v).pb = v := rfl
@[simp] theorem State.setPb_asplit : (s.setPb v).asplit = s.asplit := rfl
@[simp] theorem State.setPb_status : (s.setPb v).status = s.status := rfl
@[simp] theorem State.setPb_crc : (s.setPb v).crc = s.crc := rfl
@[simp] theorem State.setPb_flen : (s.setPb v).flen = s.flen := rfl
@[simp] theorem State.setPb_baddr : (s.setPb v).baddr = s.baddr := rfl
@[simp] theorem State.setPb_rcmd : (s.setPb v).rcmd = s.rcmd := rfl
@[simp] theorem State.setPb_rplen : (s.setPb v).rplen = s.rplen := rfl
@[simp] theorem State.setPb_rcrc : (s.setPb v).rcrc = s.rcrc := rfl
@[simp] theorem State.setPb_fault : (s.setPb v).fault = s.fault := rfl
@[simp] theorem State.setPb_inputs : (s.setPb v).inputs = s.inputs := rfl
@[simp] theorem State.setPb_response : (s.setPb v).response = s.response := rfl
end

section
variable (s : State) (v : Bool)
@[simp] theorem State.setAsplit_fb : (s.setAsplit v).fb = s.fb := rfl
@[simp] theorem State.setAsplit_pb : (s.setAsplit v).pb = s.pb := rfl
@[simp] theorem State.setAsplit_asplit : (s.setAsplit v).asplit = v := rfl
@[simp] theorem State.setAsplit_status : (s.setAsplit v).status = s.status := rfl
@[simp] theorem State.setAsplit_crc : (s.setAsplit v).crc = s.crc := rfl
@[simp] theorem State.setAsplit_flen : (s.setAsplit v).flen = s.flen := rfl
@[simp] theorem State.setAsplit_baddr : (s.setAsplit v).baddr = s.baddr := rfl
@[simp] theorem State.setAsplit_rcmd : (s.setAsplit v).rcmd = s.rcmd := rfl
@[simp] theorem State.setAsplit_rplen : (s.setAsplit v).rplen = s.rplen := rfl
@[simp] theorem State.setAsplit_rcrc : (s.setAsplit v).rcrc = s.rcrc := rfl
@[simp] theorem State.setAsplit_fault : (s.setAsplit v).fault = s.fault := rfl
@[simp] theorem State.setAsplit_inputs : (s.setAsplit v).inputs = s.inputs := rfl
@[simp] theorem State.setAsplit_response : (s.setAsplit v).response = s.response := rfl
end

section
variable (s : State) (v : Word)
@[simp] theorem State.setStatus_fb : (s.setStatus v).fb = s.fb := rfl
@[simp] theorem State.setStatus_pb : (s.setStatus v).pb = s.pb := rfl
@[simp] theorem State.setStatus_asplit : (s.setStatus v).asplit = s.asplit := rfl
@[simp] theorem State.setStatus_status : (s.setStatus v).status = v := rfl
@[simp] theorem State.setStatus_crc : (s.setStatus v).crc = s.crc := rfl
@[simp] theorem State.setStatus_flen : (s.setStatus v).flen = s.flen := rfl
@[simp] theorem State.setStatus_baddr : (s.setStatus v).baddr = s.baddr := rfl
@[simp] theorem State.setStatus_rcmd : (s.setStatus v).rcmd = s.rcmd := rfl
@[simp] theorem State.setStatus_rplen : (s.setStatus v).rplen = s.rplen := rfl
@[simp] theorem State.setStatus_rcrc : (s.setStatus v).rcrc = s.rcrc := rfl
@[simp] theorem State.setStatus_fault : (s.setStatus v).fault = s.fault := rfl
@[simp] theorem State.setStatus_inputs : (s.setStatus v).inputs = s.inputs := rfl
@[simp] theorem State.setStatus_response : (s.setStatus v).response = s.response := rfl
end

section
variable (s : State) (v : Half)
@[simp] theorem State.setCrc_fb : (s.setCrc v).fb = s.fb := rfl
@[simp] theorem State.setCrc_pb : (s.setCrc v).pb = s.pb := rfl
@[simp] theorem State.setCrc_asplit : (s.setCrc v).asplit = s.asplit := rfl
@[simp] theorem State.setCrc_status : (s.setCrc v).status = s.status := rfl
@[simp] theorem State.setCrc_crc : (s.setCrc v).crc = v := rfl
@[simp] theorem State.setCrc_flen : (s.setCrc v).flen = s.flen := rfl
@[simp] theorem State.setCrc_baddr : (s.setCrc v).baddr = s.baddr := rfl
@[simp] theorem State.setCrc_rcmd : (s.setCrc v).rcmd = s.rcmd := rfl
@[simp] theorem State.setCrc_rplen : (s.setCrc v).rplen = s.rplen := rfl
@[simp] theorem State.setCrc_rcrc : (s.setCrc v).rcrc = s.rcrc := rfl
@[simp] theorem State.setCrc_fault : (s.setCrc v).fault = s.fault := rfl
@[simp] theorem State.setCrc_inputs : (s.setCrc v).inputs = s.inputs := rfl
@[simp] theorem State.setCrc_response : (s.setCrc v).response = s.response := rfl
end

section
variable (s : State) (v : Half)
@[simp] theorem State.setFlen_fb : (s.setFlen v).fb = s.fb := rfl
@[simp] theorem State.setFlen_pb : (s.setFlen v).pb = s.pb := rfl
@[simp] theorem State.setFlen_asplit : (s.setFlen v).asplit = s.asplit := rfl
@[simp] theorem State.setFlen_status : (s.setFlen v).status = s.status := rfl
@[simp] theorem State.setFlen_crc : (s.setFlen v).crc = s.crc := rfl
@[simp] theorem State.setFlen_flen : (s.setFlen v).flen = v := rfl
@[simp] theorem State.setFlen_baddr : (s.setFlen v).baddr = s.baddr := rfl
@[simp] theorem State.setFlen_rcmd : (s.setFlen v).rcmd = s.rcmd := rfl
@[simp] theorem State.setFlen_rplen : (s.setFlen v).rplen = s.rplen := rfl
@[simp] theorem State.setFlen_rcrc : (s.setFlen v).rcrc = s.rcrc := rfl
@[simp] theorem State.setFlen_fault : (s.setFlen v).fault = s.fault := rfl
@[simp] theorem State.setFlen_inputs : (s.setFlen v).inputs = s.inputs := rfl
@[simp] theorem State.setFlen_response : (s.setFlen v).response = s.response := rfl
end

section
variable (s : State) (v : Half)
@[simp] theorem State.setBaddr_fb : (s.setBaddr v).fb = s.fb := rfl
@[simp] theorem State.setBaddr_pb : (s.setBaddr v).pb = s.pb := rfl
@[simp] theorem State.setBaddr_asplit : (s.setBaddr v).asplit = s.asplit := rfl
@[simp] theorem State.setBaddr_status : (s.setBaddr v).status = s.status := rfl
@[simp] theorem State.setBaddr_crc : (s.setBaddr v).crc = s.crc := rfl
@[simp] theorem State.setBaddr_flen : (s.setBaddr v).flen = s.flen := rfl
@[simp] theorem State.setBaddr_baddr : (s.setBaddr v).baddr = v := rfl
@[simp] theorem State.setBaddr_rcmd : (s.setBaddr v).rcmd = s.rcmd := rfl
@[simp] theorem State.setBaddr_rplen : (s.setBaddr v).rplen = s.rplen := rfl
@[simp] theorem State.setBaddr_rcrc : (s.setBaddr v).rcrc = s.rcrc := rfl
@[simp] theorem State.setBaddr_fault : (s.setBaddr v).fault = s.fault := rfl
@[simp] theorem State.setBaddr_inputs : (s.setBaddr v).inputs = s.inputs := rfl
@[simp] theorem State.setBaddr_response : (s.setBaddr v).response = s.response := rfl
end

section
variable (s : State) (v : Byte)
@[simp] theorem State.setRcmd_fb : (s.setRcmd v).fb = s.fb := rfl
@[simp] theorem State.setRcmd_pb : (s.setRcmd v).pb = s.pb := rfl
@[simp] theorem State.setRcmd_asplit : (s.setRcmd v).asplit = s.asplit := rfl
@[simp] theorem State.setRcmd_status : (s.setRcmd v).status = s.status := rfl
@[simp] theorem State.setRcmd_crc : (s.setRcmd v).crc = s.crc := rfl
@[simp] theorem State.setRcmd_flen : (s.setRcmd v).flen = s.flen := rfl
@[simp] theorem State.setRcmd_baddr : (s.setRcmd v).baddr = s.baddr := rfl
@[simp] theorem State.setRcmd_rcmd : (s.setRcmd v).rcmd = v := rfl
@[simp] theorem State.setRcmd_rplen : (s.setRcmd v).rplen = s.rplen := rfl
@[simp] theorem State.setRcmd_rcrc : (s.setRcmd v).rcrc = s.rcrc := rfl
@[simp] theorem State.setRcmd_fault : (s.setRcmd v).fault = s.fault := rfl
@[simp] theorem State.setRcmd_inputs : (s.setRcmd v).inputs = s.inputs := rfl
@[simp] theorem State.setRcmd_response : (s.setRcmd v).response = s.response := rfl
end

section
variable (s : State) (v : Byte)
@[simp] theorem State.setRplen_fb : (s.setRplen v).fb = s.fb := rfl
@[simp] theorem State.setRplen_pb : (s.setRplen v).pb = s.pb := rfl
@[simp] theorem State.setRplen_asplit : (s.setRplen v).asplit = s.asplit := rfl
@[simp] theorem State.setRplen_status : (s.setRplen v).status = s.status := rfl
@[simp] theorem State.setRplen_crc : (s.setRplen v).crc = s.crc := rfl
@[simp] theorem State.setRplen_flen : (s.setRplen v).flen = s.flen := rfl
@[simp] theorem State.setRplen_baddr : (s.setRplen v).baddr = s.baddr := rfl
@[simp] theorem State.setRplen_rcmd : (s.setRplen v).rcmd = s.rcmd := rfl
@[simp] theorem State.setRplen_rplen : (s.setRplen v).rplen = v := rfl
@[simp] theorem State.setRplen_rcrc : (s.setRplen v).rcrc = s.rcrc := rfl
@[simp] theorem State.setRplen_fault : (s.setRplen v).fault = s.fault := rfl
@[simp] theorem State.setRplen_inputs : (s.setRplen v).inputs = s.inputs := rfl
@[simp] theorem State.setRplen_response : (s.setRplen v).response = s.response := rfl
end

section
variable (s : State) (v : Half)
@[simp] theorem State.setRcrc_fb : (s.setRcrc v).fb = s.fb := rfl
@[simp] theorem State.setRcrc_pb : (s.setRcrc v).pb = s.pb := rfl
@[simp] theorem State.setRcrc_asplit : (s.setRcrc v).asplit = s.asplit := rfl
@[simp] theorem State.setRcrc_status : (s.setRcrc v).status = s.status := rfl
@[simp] theorem State.setRcrc_crc : (s.setRcrc v).crc = s.crc := rfl
@[simp] theorem State.setRcrc_flen : (s.setRcrc v).flen = s.flen := rfl
@[simp] theorem State.setRcrc_baddr : (s.setRcrc v).baddr = s.baddr := rfl
@[simp] theorem State.setRcrc_rcmd : (s.setRcrc v).rcmd = s.rcmd := rfl
@[simp] theorem State.setRcrc_rplen : (s.setRcrc v).rplen = s.rplen := rfl
@[simp] theorem State.setRcrc_rcrc : (s.setRcrc v).rcrc = v := rfl
@[simp] theorem State.setRcrc_fault : (s.setRcrc v).fault = s.fault := rfl
@[simp] theorem State.setRcrc_inputs : (s.setRcrc v).inputs = s.inputs := rfl
@[simp] theorem State.setRcrc_response : (s.setRcrc v).response = s.response := rfl
end

section
variable (s : State) (v : Option Fault)
@[simp] theorem State.setFault_fb : (s.setFault v).fb = s.fb := rfl
@[simp] theorem State.setFault_pb : (s.setFault v).pb = s.pb := rfl
@[simp] theorem State.setFault_asplit : (s.setFault v).asplit = s.asplit := rfl
@[simp] theorem State.setFault_status : (s.setFault v).status = s.status := rfl
@[simp] theorem State.setFault_crc : (s.setFault v).crc = s.crc := rfl
@[simp] theorem State.setFault_flen : (s.setFault v).flen = s.flen := rfl
@[simp] theorem State.setFault_baddr : (s.setFault v).baddr = s.baddr := rfl
@[simp] theorem State.setFault_rcmd : (s.setFault v).rcmd = s.rcmd := rfl
@[simp] theorem State.setFault_rplen : (s.setFault v).rplen = s.rplen := rfl
@[simp] theorem State.setFault_rcrc : (s.setFault v).rcrc = s.rcrc := rfl
@[simp] theorem State.setFault_fault : (s.setFault v).fault = v := rfl
@[simp] theorem State.setFault_inputs : (s.setFault v).inputs = s.inputs := rfl
@[simp] theorem State.setFault_response : (s.setFault v).response = s.response := rfl
end

section
variable (s : State) (v : List Input)
@[simp] theorem State.setInputs_fb : (s.setInputs v).fb = s.fb := rfl
@[simp] theorem State.setInputs_pb : (s.setInputs v).pb = s.pb := rfl
@[simp] theorem State.setInputs_asplit : (s.setInputs v).asplit = s.asplit := rfl
@[simp] theorem State.setInputs_status : (s.setInputs v).status = s.status := rfl
@[simp] theorem State.setInputs_crc : (s.setInputs v).crc = s.crc := rfl
@[simp] theorem State.setInputs_flen : (s.setInputs v).flen = s.flen := rfl
@[simp] theorem State.setInputs_baddr : (s.setInputs v).baddr = s.baddr := rfl
@[simp] theorem State.setInputs_rcmd : (s.setInputs v).rcmd = s.rcmd := rfl
@[simp] theorem State.setInputs_rplen : (s.setInputs v).rplen = s.rplen := rfl
@[simp] theorem State.setInputs_rcrc : (s.setInputs v).rcrc = s.rcrc := rfl
@[simp] theorem State.setInputs_fault : (s.setInputs v).fault = s.fault := rfl
@[simp] theorem State.setInputs_inputs : (s.setInputs v).inputs = v := rfl
@[simp] theorem State.setInputs_response : (s.setInputs v).response = s.response := rfl
end

section
variable (s : State) (v : Option Response)
@[simp] theorem State.setResponse_fb : (s.setResponse v).fb = s.fb := rfl
@[simp] theorem State.setResponse_pb : (s.setResponse v).pb = s.pb := rfl
@[simp] theorem State.setResponse_asplit : (s.setResponse v).asplit = s.asplit := rfl
@[simp] theorem State.setResponse_status : (s.setResponse v).status = s.status := rfl
@[simp] theorem State.setResponse_crc : (s.setResponse v).crc = s.crc := rfl
@[simp] theorem State.setResponse_flen : (s.setResponse v).flen = s.flen := rfl
@[simp] theorem State.setResponse_baddr : (s.setResponse v).baddr = s.baddr := rfl
@[simp] theorem State.setResponse_rcmd : (s.setResponse v).rcmd = s.rcmd := rfl
@[simp] theorem State.setResponse_rplen : (s.setResponse v).rplen = s.rplen := rfl
@[simp] theorem State.setResponse_rcrc : (s.setResponse v).rcrc = s.rcrc := rfl
@[simp] theorem State.setResponse_fault : (s.setResponse v).fault = s.fault := rfl
@[simp] theorem State.setResponse_inputs : (s.setResponse v).inputs = s.inputs := rfl
@[simp] theorem State.setResponse_response : (s.setResponse v).response = v := rfl
end

end Sys2Proof.Machine
end

