-- ==== Sys2Proof/Laws/Ops.lean ====
section
/-! SUPPORT. What each shared operation answers, said once: reads that may meet an unwritten byte, the two ways a command
ends, the checksum report, the frame write, and what a command that goes on can have changed. -/

namespace Sys2Proof.Machine

theorem withFrame_next_iff {α : Type} (r : Except Nat α) (k : α → Outcome) (t : State) :
    withFrame r k = .next t ↔ ∃ v, r = .ok v ∧ k v = .next t := by
  cases r <;> simp [withFrame]

theorem withFrame_fault_iff {α : Type} (r : Except Nat α) (k : α → Outcome) (f : Fault) :
    withFrame r k = .fault f ↔ (∃ i, r = .error i ∧ f = .unwrittenFrame i) ∨ ∃ v, r = .ok v ∧ k v = .fault f := by
  cases r <;> simp [withFrame, eq_comm]

theorem withPayload_next_iff {α : Type} (r : Except Nat α) (k : α → Outcome) (t : State) :
    withPayload r k = .next t ↔ ∃ v, r = .ok v ∧ k v = .next t := by
  cases r <;> simp [withPayload]

theorem withPayload_fault_iff {α : Type} (r : Except Nat α) (k : α → Outcome) (f : Fault) :
    withPayload r k = .fault f ↔ (∃ i, r = .error i ∧ f = .unwrittenPayload i) ∨ ∃ v, r = .ok v ∧ k v = .fault f := by
  cases r <;> simp [withPayload, eq_comm]

@[simp] theorem withFrame_ok {α : Type} (v : α) (k : α → Outcome) : withFrame (.ok v) k = k v := rfl

@[simp] theorem withFrame_error {α : Type} (i : Nat) (k : α → Outcome) :
    withFrame (.error i) k = .fault (.unwrittenFrame i) := rfl

@[simp] theorem withPayload_ok {α : Type} (v : α) (k : α → Outcome) : withPayload (.ok v) k = k v := rfl

@[simp] theorem withPayload_error {α : Type} (i : Nat) (k : α → Outcome) :
    withPayload (.error i) k = .fault (.unwrittenPayload i) := rfl

theorem readByte_of_read {m : Memory} {i : Nat} {v : Byte} (h : m.read i = some v) : m.readByte i = .ok v :=
  (Memory.readByte_ok_iff m i v).2 h

theorem readByte_of_unwritten {m : Memory} {i : Nat} (h : m.read i = none) : m.readByte i = .error i :=
  (Memory.readByte_error_iff m i i).2 ⟨h, rfl⟩

/-- A received checksum is read exactly from its two written bytes. -/
theorem receivedChecksum_ok_iff (m : Memory) (p : Nat) (r : Half) :
    receivedChecksum m p = .ok r ↔
      ∃ lo hi, m.read (p - 1) = some lo ∧ m.read p = some hi ∧ r = joinBytes hi lo := by
  unfold receivedChecksum Memory.readByte
  cases Memory.read m (p - 1) <;> cases Memory.read m p <;> simp [eq_comm]

/-- A received checksum meets its low byte first, then its high byte. -/
theorem receivedChecksum_error_iff (m : Memory) (p k : Nat) :
    receivedChecksum m p = .error k ↔
      (m.read (p - 1) = none ∧ k = p - 1) ∨ (m.read (p - 1) ≠ none ∧ m.read p = none ∧ k = p) := by
  unfold receivedChecksum Memory.readByte
  cases Memory.read m (p - 1) <;> cases Memory.read m p <;> simp [eq_comm]

/-- A range's checksum is that of the bytes read from it. -/
theorem crcOfRange_ok_iff (m : Memory) (s : Nat) (e : Int) (k : Half) :
    crcOfRange m s e = .ok k ↔ ∃ bytes, m.readBytes s (rangeCount s e) = .ok bytes ∧ k = crcOfBytes bytes := by
  unfold crcOfRange
  cases Memory.readBytes m s (rangeCount s e) <;> simp [eq_comm]

theorem crcOfRange_error_iff (m : Memory) (s : Nat) (e : Int) (k : Nat) :
    crcOfRange m s e = .error k ↔ m.readBytes s (rangeCount s e) = .error k := by
  unfold crcOfRange
  cases Memory.readBytes m s (rangeCount s e) <;> simp

/-! ## STATUS words -/

@[simp] theorem statusErr_statusWord (c : ErrorCode) (r : Reason) (d m : Bool) :
    statusErr (statusWord c r d m) = errorBits c := by
  cases c <;> cases r <;> cases d <;> cases m <;> decide

@[simp] theorem statusReason_statusWord (c : ErrorCode) (r : Reason) (d m : Bool) :
    statusReason (statusWord c r d m) = reasonBits r := by
  cases c <;> cases r <;> cases d <;> cases m <;> decide

@[simp] theorem statusCkdone_statusWord (c : ErrorCode) (r : Reason) (d m : Bool) :
    statusCkdone (statusWord c r d m) = d := by
  cases c <;> cases r <;> cases d <;> cases m <;> decide

@[simp] theorem statusCkmatch_statusWord (c : ErrorCode) (r : Reason) (d m : Bool) :
    statusCkmatch (statusWord c r d m) = m := by
  cases c <;> cases r <;> cases d <;> cases m <;> decide

/-! ## How commands end -/

theorem completeCommand_next_iff (d m : Bool) (s t : State) :
    completeCommand d m s = .next t ↔ t = s.setStatus (statusWord .ok .none d m) := by
  simp [completeCommand, eq_comm]

theorem failCommand_next_iff (c : ErrorCode) (r : Reason) (s t : State) :
    failCommand c r s = .next t ↔ t = s.setStatus (statusWord c r false false) := by
  simp [failCommand, eq_comm]

/-- A checksum report that goes on has kept both checksums and compared them. -/
theorem reportChecksums_next_iff (k r : Half) (s t : State) :
    reportChecksums k r s = .next t ↔
      t = ((s.setCrc k).setRcrc r).setStatus (statusWord .ok .none true (decide (k = r))) := by
  simp [reportChecksums, completeCommand_next_iff]

/-- A frame write that goes on has changed FB, FLEN, CRC and STATUS. -/
theorem emitFrame_next_iff (frame : List Byte) (len : Nat) (k : Half) (s t : State) :
    emitFrame frame len k s = .next t ↔
      t = (((s.setFb (s.fb.writeBytes 0 frame)).setFlen (BitVec.ofNat 16 len)).setCrc k).setStatus
        (statusWord .ok .none false false) := by
  simp [emitFrame, completeCommand_next_iff]

@[simp] theorem simpleFrame_length (c l : Byte) (payload : List Byte) :
    (simpleFrame c l payload).length = payload.length + 6 := by
  simp [simpleFrame, simpleDomain, checksumBytes]

@[simp] theorem blockHeader_length (d c n : Byte) (s : State) : (blockHeader d c n s).length = 5 := rfl

@[simp] theorem blockFrame_length (domain : List Byte) : (blockFrame domain).length = domain.length + 2 := by
  simp [blockFrame, checksumBytes]

/-- What FRM.DECS answers when it goes on: a failed check, named, or an accepted frame's report. -/
theorem execFrmDecs_next (n : Nat) (s t : State) (h : execFrmDecs n s = .next t) :
    (∃ c r, (c = .range ∧ r = .none ∨ c = .malformed ∧ (r = .short ∨ r = .start ∨ r = .endMarker)) ∧
      t = s.setStatus (statusWord c r false false)) ∨
    ∃ l k r cmd, impliedLength l ≤ n ∧ n ≤ Config.fbSize ∧ s.fb.read 0 = some Config.startMarker ∧
      s.fb.read 2 = some l ∧ s.fb.read (impliedLength l - 1) = some Config.endMarker ∧
      crcOfRange s.fb 1 ((impliedLength l : Int) - 4) = .ok k ∧
      receivedChecksum s.fb (impliedLength l - 2) = .ok r ∧ s.fb.read 1 = some cmd ∧
      t = (((((s.setFlen (BitVec.ofNat 16 (impliedLength l))).setRcmd cmd).setRplen l).setCrc k).setRcrc r).setStatus
        (statusWord .ok .none true (decide (k = r))) := by
  unfold execFrmDecs checkFrame at h
  split at h
  · rw [failCommand_next_iff] at h; exact .inl ⟨_, _, .inl ⟨rfl, rfl⟩, h⟩
  · next hn =>
    split at h
    · rw [failCommand_next_iff] at h; exact .inl ⟨_, _, .inr ⟨rfl, .inl rfl⟩, h⟩
    · obtain ⟨b0, hb0, h⟩ := (withFrame_next_iff _ _ _).1 h
      split at h
      · rw [failCommand_next_iff] at h; exact .inl ⟨_, _, .inr ⟨rfl, .inr (.inl rfl)⟩, h⟩
      · next hstart =>
        obtain ⟨l, hl, h⟩ := (withFrame_next_iff _ _ _).1 h
        have hl256 : l.toNat < 256 := l.isLt
        split at h
        · next hov => simp only [impliedLength, Config.fbSize] at hov; omega
        · split at h
          · rw [failCommand_next_iff] at h; exact .inl ⟨_, _, .inr ⟨rfl, .inl rfl⟩, h⟩
          · next hf =>
            obtain ⟨e, he, h⟩ := (withFrame_next_iff _ _ _).1 h
            split at h
            · rw [failCommand_next_iff] at h; exact .inl ⟨_, _, .inr ⟨rfl, .inr (.inr rfl)⟩, h⟩
            · next hend =>
              unfold acceptFrame at h
              obtain ⟨k, hk, h⟩ := (withFrame_next_iff _ _ _).1 h
              obtain ⟨r, hr, h⟩ := (withFrame_next_iff _ _ _).1 h
              obtain ⟨cmd, hcmd, h⟩ := (withFrame_next_iff _ _ _).1 h
              rw [reportChecksums_next_iff] at h
              rw [Memory.readByte_ok_iff] at hb0 hl he hcmd
              simp only [ne_eq, not_not] at hstart hend
              subst hstart hend
              exact .inr ⟨l, k, r, cmd, by omega, by omega, hb0, hl, he, hk, hr, hcmd, h⟩

/-- What CRC.VERIFY answers when it goes on. -/
theorem execCrcVerify_next (p : Nat) (v : Variant) (s t : State) (h : execCrcVerify p v s = .next t) :
    (p = 0 ∨ Config.fbSize ≤ p) ∧ t = s.setStatus (statusWord .range .none false false) ∨
    ∃ k r, 1 ≤ p ∧ p < Config.fbSize ∧ crcOfRange s.fb (domainStart v) ((p : Int) - 2) = .ok k ∧
      receivedChecksum s.fb p = .ok r ∧
      t = ((s.setCrc k).setRcrc r).setStatus (statusWord .ok .none true (decide (k = r))) := by
  unfold execCrcVerify at h
  split at h
  · next hp => exact .inl ⟨hp, (failCommand_next_iff _ _ _ _).1 h⟩
  · next hp =>
    obtain ⟨k, hk, h⟩ := (withFrame_next_iff _ _ _).1 h
    obtain ⟨r, hr, h⟩ := (withFrame_next_iff _ _ _).1 h
    exact .inr ⟨k, r, by omega, by omega, hk, hr, (reportChecksums_next_iff _ _ _ _).1 h⟩

/-- What CRC.RANGE answers when it goes on. -/
theorem execCrcRange_next (first last : Nat) (s t : State) (h : execCrcRange first last s = .next t) :
    (first ≤ last ∧ Config.fbSize ≤ last ∧ t = s.setStatus (statusWord .range .none false false)) ∨
    ∃ k, (last < first ∧ k = Config.crcInit ∨ last < Config.fbSize ∧ crcOfRange s.fb first last = .ok k) ∧
      t = (s.setCrc k).setStatus (statusWord .ok .none false false) := by
  unfold execCrcRange at h
  split at h
  · next hlt => exact .inr ⟨_, .inl ⟨hlt, rfl⟩, (completeCommand_next_iff _ _ _ _).1 h⟩
  · split at h
    · exact .inl ⟨by omega, by omega, (failCommand_next_iff _ _ _ _).1 h⟩
    · obtain ⟨k, hk, h⟩ := (withFrame_next_iff _ _ _).1 h
      exact .inr ⟨k, .inr ⟨by omega, hk⟩, (completeCommand_next_iff _ _ _ _).1 h⟩

/-- What FRM.ENCS answers when it goes on. -/
theorem execFrmEncs_next (c l : Byte) (s t : State) (h : execFrmEncs c l s = .next t) :
    ∃ payload, s.pb.readBytes 0 l.toNat = .ok payload ∧ payload.length = l.toNat ∧
      t = (((s.setFb (s.fb.writeBytes 0 (simpleFrame c l payload))).setFlen (BitVec.ofNat 16 (l.toNat + 6))).setCrc
        (crcOfBytes (simpleDomain c l payload))).setStatus (statusWord .ok .none false false) := by
  obtain ⟨payload, hp, h⟩ := (withPayload_next_iff _ _ _).1 h
  exact ⟨payload, hp, ((Memory.readBytes_ok_iff _ _ _ _).1 hp).1, (emitFrame_next_iff _ _ _ _ _).1 h⟩

/-- What FRM.ENCBW answers when it goes on. -/
theorem execFrmEncbw_next (d c n : Byte) (s t : State) (h : execFrmEncbw d c n s = .next t) :
    ∃ payload, s.pb.readBytes 0 n.toNat = .ok payload ∧ payload.length = n.toNat ∧
      t = (((s.setFb (s.fb.writeBytes 0 (blockFrame (blockHeader d c n s ++ payload)))).setFlen
        (BitVec.ofNat 16 (n.toNat + 7))).setCrc (crcOfBytes (blockHeader d c n s ++ payload))).setStatus
        (statusWord .ok .none false false) := by
  obtain ⟨payload, hp, h⟩ := (withPayload_next_iff _ _ _).1 h
  exact ⟨payload, hp, ((Memory.readBytes_ok_iff _ _ _ _).1 hp).1, (emitFrame_next_iff _ _ _ _ _).1 h⟩

/-- What FRM.ENCBR answers. -/
theorem execFrmEncbr_next (d c n : Byte) (s t : State) (h : execFrmEncbr d c n s = .next t) :
    t = (((s.setFb (s.fb.writeBytes 0 (blockFrame (blockHeader d c n s)))).setFlen 7#16).setCrc
      (crcOfBytes (blockHeader d c n s))).setStatus (statusWord .ok .none false false) :=
  (emitFrame_next_iff _ _ _ _ _).1 h

end Sys2Proof.Machine
end

