-- ==== Sys2Proof/Laws/Exec.lean ====
section
/-! SUPPORT. What any command that goes on can have changed, said once for all commands. -/

namespace Sys2Proof.Machine

/-- A command that goes on has failed (STATUS alone), or set the accumulator, or compared checksums as CRC.VERIFY, or
built a frame as an encode command, or accepted a frame as FRM.DECS. -/
theorem exec_next_cases (i : Instr) (s t : State) (h : exec i s = .next t) :
    (∃ c r, (c = .range ∧ r = .none ∨ c = .malformed ∧ (r = .short ∨ r = .start ∨ r = .endMarker)) ∧
      t = s.setStatus (statusWord c r false false)) ∨
    (∃ k, t = (s.setCrc k).setStatus (statusWord .ok .none false false)) ∨
    (∃ p v k r, i = .crcVerify p v ∧
      t = ((s.setCrc k).setRcrc r).setStatus (statusWord .ok .none true (decide (k = r)))) ∨
    (∃ frame len k,
      ((∃ c l, i = .frmEncs c l) ∨ (∃ d c n, i = .frmEncbw d c n) ∨ (∃ d c n, i = .frmEncbr d c n)) ∧
      frame.length = len ∧ len ≤ 262 ∧
      t = (((s.setFb (s.fb.writeBytes 0 frame)).setFlen (BitVec.ofNat 16 len)).setCrc k).setStatus
        (statusWord .ok .none false false)) ∨
    (∃ n l k r cmd, i = .frmDecs n ∧
      t = (((((s.setFlen (BitVec.ofNat 16 (impliedLength l))).setRcmd cmd).setRplen l).setCrc k).setRcrc r).setStatus
        (statusWord .ok .none true (decide (k = r)))) := by
  cases i with
  | crcInit => exact .inr (.inl ⟨_, (completeCommand_next_iff _ _ _ _).1 h⟩)
  | crcByte a => exact .inr (.inl ⟨_, (completeCommand_next_iff _ _ _ _).1 h⟩)
  | crcRange first last =>
    rcases execCrcRange_next _ _ _ _ h with ⟨_, _, h⟩ | ⟨k, _, h⟩
    · exact .inl ⟨_, _, .inl ⟨rfl, rfl⟩, h⟩
    · exact .inr (.inl ⟨k, h⟩)
  | crcVerify p v =>
    rcases execCrcVerify_next _ _ _ _ h with ⟨_, h⟩ | ⟨k, r, _, _, _, _, h⟩
    · exact .inl ⟨_, _, .inl ⟨rfl, rfl⟩, h⟩
    · exact .inr (.inr (.inl ⟨p, v, k, r, rfl, h⟩))
  | frmEncs c l =>
    obtain ⟨payload, _, hp, h⟩ := execFrmEncs_next _ _ _ _ h
    have := l.isLt
    exact .inr (.inr (.inr (.inl ⟨_, _, _, .inl ⟨c, l, rfl⟩, by simp [hp], by omega, h⟩)))
  | frmEncbw d c n =>
    obtain ⟨payload, _, hp, h⟩ := execFrmEncbw_next _ _ _ _ _ h
    have := n.isLt
    exact .inr (.inr (.inr (.inl ⟨_, _, _, .inr (.inl ⟨d, c, n, rfl⟩), by simp [hp]; omega, by omega, h⟩)))
  | frmEncbr d c n =>
    have h := execFrmEncbr_next _ _ _ _ _ h
    exact .inr (.inr (.inr (.inl ⟨_, 7, _, .inr (.inr ⟨d, c, n, rfl⟩), by simp, by omega, h⟩)))
  | frmDecs n =>
    rcases execFrmDecs_next _ _ _ h with h | ⟨l, k, r, cmd, _, _, _, _, _, _, _, _, h⟩
    · exact .inl h
    · exact .inr (.inr (.inr (.inr ⟨n, l, k, r, cmd, rfl, h⟩)))

end Sys2Proof.Machine
end

