-- ==== Sys2Proof/Laws/HostPort.lean ====
section
/-! SUPPORT. What the host port's shared operations answer: the address map by its four cases, a BusError, a host read
that goes on, an issued command. -/

namespace Sys2Proof.Machine

/-- A register stands at an address exactly when R52 puts one there. -/
theorem registerAt_isSome (a : PortAddr) :
    (registerAt a).isSome = decide (0x300 ≤ a.toNat ∧ a.toNat ≤ 0x320 ∧ a.toNat % 4 = 0) := by
  revert a; decide +kernel

/-- The address map by its four cases, with the width admitted in each (R52). -/
theorem portTarget_cases (a : PortAddr) :
    (a.toNat ≤ 0x117 ∧ admittedWidth a = some .w8 ∧ portTarget a = .frame a.toNat) ∨
    (0x200 ≤ a.toNat ∧ a.toNat ≤ 0x2FE ∧ admittedWidth a = some .w8 ∧ portTarget a = .payload (a.toNat - 0x200)) ∨
    (∃ r, registerAt a = some r ∧ admittedWidth a = some .w32 ∧ portTarget a = .register r) ∨
    (admittedWidth a = none ∧ portTarget a = .unmapped) := by
  have hreg := registerAt_isSome a
  by_cases h1 : a.toNat ≤ 0x117
  · exact .inl ⟨h1, if_pos h1, if_pos (by simp only [Config.fbSize]; omega)⟩
  by_cases h2 : 0x200 ≤ a.toNat ∧ a.toNat ≤ 0x2FE
  · refine .inr (.inl ⟨h2.1, h2.2, by rw [admittedWidth, if_neg h1, if_pos h2], ?_⟩)
    rw [portTarget, if_neg (by simp only [Config.fbSize]; omega),
      if_pos (by simp only [pbBase, Config.pbSize]; omega)]
  have hw : admittedWidth a =
      if 0x300 ≤ a.toNat ∧ a.toNat ≤ 0x320 ∧ a.toNat % 4 = 0 then some .w32 else none := by
    rw [admittedWidth, if_neg h1, if_neg h2]
  rw [portTarget, if_neg (by simp only [Config.fbSize]; omega),
    if_neg (by simp only [pbBase, Config.pbSize]; omega)]
  cases hr : registerAt a with
  | some r => simp [hr] at hreg; exact .inr (.inr (.inl ⟨r, rfl, by rw [hw, if_pos hreg], rfl⟩))
  | none => simp [hr] at hreg; exact .inr (.inr (.inr ⟨by rw [hw, if_neg (by omega)], rfl⟩))

/-- A BusError answers with its address, marks the fault if none is marked, and changes nothing else (R185). -/
theorem raiseBusError_eq (a : PortAddr) (s : State) :
    raiseBusError a s =
      .next { s with response := some (.busError a), fault := some (s.fault.getD (.busError a)) } := by
  unfold raiseBusError respond markFault
  cases h : s.fault <;> simp [State.setResponse, State.setFault, h]

/-- A host read that goes on changes the answer and, as a BusError, the fault mark. -/
theorem hostRead_next (a : PortAddr) (width : Width) (s t : State) (h : hostRead a width s = .next t) :
    (∃ r, t = s.setResponse (some r)) ∨ raiseBusError a s = .next t := by
  unfold hostRead at h
  split at h
  · obtain ⟨v, -, h⟩ := (withFrame_next_iff _ _ _).1 h
    injection h with h
    exact .inl ⟨_, h.symm⟩
  · obtain ⟨v, -, h⟩ := (withPayload_next_iff _ _ _).1 h
    injection h with h
    exact .inl ⟨_, h.symm⟩
  · injection h with h
    exact .inl ⟨_, h.symm⟩
  · exact .inr h

/-- An issued word that goes on was illegal, or ran the command it decodes to (R60, R90). -/
theorem issueCommand_next (w : Word) (s t : State) (h : issueCommand w s = .next t) :
    t = s.setStatus (statusWord .illegal .none false false) ∨ ∃ i, decode w = .ok i ∧ exec i s = .next t := by
  unfold issueCommand at h
  split at h
  · next i hi => exact .inr ⟨i, hi, h⟩
  · exact .inl ((failCommand_next_iff _ _ _ _).1 h)

end Sys2Proof.Machine
end

