-- ==== Sys2Proof/Laws/PerInstr.lean ====
section
/-! SUPPORT. Per-command laws about the command as syntax: the family OpcodeRow says that a command's word carries the
fixed bits of the command's own row of the opcode map (30_encoding.md R88). -/

namespace Sys2Proof.Laws.OpcodeRow

/-- The row of R88 that bears the command's name selects the command's word. -/
def Statement (i : Instr) : Prop := ∃ r ∈ opcodeMap, r.mnemonic = mnemonicOf i ∧ r.selects (encode i) = true

/-- A row in the map that bears the command's name and whose masked bits the command's word has. -/
theorem statement_of_row (i : Instr) (r : OpcodeRow) (hr : r ∈ opcodeMap) (hm : r.mnemonic = mnemonicOf i)
    (h : encode i &&& r.mask = r.pattern) : Statement i :=
  ⟨r, hr, hm, by simp [OpcodeRow.selects, h]⟩

theorem crcInit : Statement .crcInit :=
  statement_of_row _ ⟨"CRC.INIT", 0x00000001#32, 0xFFFFFFFF#32⟩ (by simp [opcodeMap]) rfl rfl

theorem crcByte (a : Byte) : Statement (.crcByte a) := by
  refine statement_of_row _ ⟨"CRC.BYTE", 0x00000002#32, 0xFFFF00FF#32⟩ (by simp [opcodeMap]) rfl ?_
  show (0#16 ++ a ++ 0x02#8) &&& (0xFFFF#16 ++ 0x00#8 ++ 0xFF#8) = 0#16 ++ 0#8 ++ 0x02#8
  simp only [BitVec.and_append, BitVec.and_zero]
  rfl

theorem crcRange (s e : Nat) : Statement (.crcRange s e) := by
  refine statement_of_row _ ⟨"CRC.RANGE", 0x00000003#32, 0xFC0000FF#32⟩ (by simp [opcodeMap]) rfl ?_
  show (0#6 ++ BitVec.ofNat 9 e ++ BitVec.ofNat 9 s ++ 0x03#8) &&& (0x3F#6 ++ 0#9 ++ 0#9 ++ 0xFF#8) =
    0#6 ++ 0#9 ++ 0#9 ++ 0x03#8
  simp only [BitVec.and_append, BitVec.and_zero]
  rfl

theorem crcVerify (p : Nat) (v : Variant) : Statement (.crcVerify p v) := by
  refine statement_of_row _ ⟨"CRC.VERIFY", 0x00000004#32, 0xFFFC00FF#32⟩ (by simp [opcodeMap]) rfl ?_
  show (0#14 ++ bitOfVariant v ++ BitVec.ofNat 9 p ++ 0x04#8) &&& (0x3FFF#14 ++ 0#1 ++ 0#9 ++ 0xFF#8) =
    0#14 ++ 0#1 ++ 0#9 ++ 0x04#8
  simp only [BitVec.and_append, BitVec.and_zero]
  rfl

theorem frmEncs (c l : Byte) : Statement (.frmEncs c l) := by
  refine statement_of_row _ ⟨"FRM.ENCS", 0x00000010#32, 0xFF0000FF#32⟩ (by simp [opcodeMap]) rfl ?_
  show (0#8 ++ l ++ c ++ 0x10#8) &&& (0xFF#8 ++ 0#8 ++ 0#8 ++ 0xFF#8) = 0#8 ++ 0#8 ++ 0#8 ++ 0x10#8
  simp only [BitVec.and_append, BitVec.and_zero]
  rfl

theorem frmEncbw (d c n : Byte) : Statement (.frmEncbw d c n) := by
  refine statement_of_row _ ⟨"FRM.ENCBW", 0x00000011#32, 0x000000FF#32⟩ (by simp [opcodeMap]) rfl ?_
  show (d ++ n ++ c ++ 0x11#8) &&& (0#8 ++ 0#8 ++ 0#8 ++ 0xFF#8) = 0#8 ++ 0#8 ++ 0#8 ++ 0x11#8
  simp only [BitVec.and_append, BitVec.and_zero]
  rfl

theorem frmEncbr (d c n : Byte) : Statement (.frmEncbr d c n) := by
  refine statement_of_row _ ⟨"FRM.ENCBR", 0x00000012#32, 0x000000FF#32⟩ (by simp [opcodeMap]) rfl ?_
  show (d ++ n ++ c ++ 0x12#8) &&& (0#8 ++ 0#8 ++ 0#8 ++ 0xFF#8) = 0#8 ++ 0#8 ++ 0#8 ++ 0x12#8
  simp only [BitVec.and_append, BitVec.and_zero]
  rfl

theorem frmDecs (n : Nat) : Statement (.frmDecs n) := by
  refine statement_of_row _ ⟨"FRM.DECS", 0x00000020#32, 0xFFFE00FF#32⟩ (by simp [opcodeMap]) rfl ?_
  show (0#15 ++ BitVec.ofNat 9 n ++ 0x20#8) &&& (0x7FFF#15 ++ 0#9 ++ 0xFF#8) = 0#15 ++ 0#9 ++ 0x20#8
  simp only [BitVec.and_append, BitVec.and_zero]
  rfl

end Sys2Proof.Laws.OpcodeRow
end

