-- ==== Sys2Proof/Tests/Slice0.lean ====
section
/-! SUPPORT. Tests. Expected values are those of spec/95_test_vectors.md and of the rules' own examples, named in each
comment. `witness_…` theorems give states and operands that meet a statement's hypotheses, at boundary values where a
clause has a range. -/

-- Each kernel evaluation below waits for the declarations before it: one after the other needs one thread.
set_option Elab.async false

namespace Sys2Proof.Tests

open Sys2Proof Sys2Proof.Machine

/-! ## Helpers -/

/-- The next state of an outcome, if it is one. -/
def nextOf : Outcome → Option State
  | .next s => some s
  | _ => none

/-- The fault of an outcome, if it is one. -/
def faultOf : Outcome → Option Fault
  | .fault r => some r
  | _ => none

/-- Reset with bytes in FB from index 0. -/
def withFb (bytes : List Byte) : State := State.reset.setFb (Memory.writeBytes [] 0 bytes)

/-- Reset with bytes in PB from index 0. -/
def withPb (bytes : List Byte) : State := State.reset.setPb (Memory.writeBytes [] 0 bytes)

/-- The vectors' base frame: FB[0..5] = 55 31 00 14 20 AA. -/
def base : State := withFb [0x55#8, 0x31#8, 0x00#8, 0x14#8, 0x20#8, 0xAA#8]

/-- STATUS, CRC and RCRC after a command. -/
def checkRegs (o : Outcome) : Option (Word × Half × Half) := (nextOf o).map fun s => (s.status, s.crc, s.rcrc)

/-- Some bytes of FB, with FLEN and CRC, after a command. -/
def frameRegs (o : Outcome) (count : Nat) : Option (Except Nat (List Byte) × Half × Half) :=
  (nextOf o).map fun s => (s.fb.readBytes 0 count, s.flen, s.crc)

/-- STATUS, FLEN, RCMD, RPLEN and RCRC after a command. -/
def decodeRegs (o : Outcome) : Option (Word × Half × Byte × Byte × Half) :=
  (nextOf o).map fun s => (s.status, s.flen, s.rcmd, s.rplen, s.rcrc)

/-- Whether the bytes were read. -/
def bytesAre (r : Option (Except Nat (List Byte) × Half × Half)) (bytes : List Byte) (flen crc : Half) : Bool :=
  match r with
  | some (.ok bs, f, c) => bs == bytes && f == flen && c == crc
  | _ => false

/-- The decoded command, if the word is legal. -/
def decoded (w : Word) : Option Instr := (decode w).toOption

/-! ## WellFormed refuses an ill-formed term for each of its checks -/

theorem test_wf_refuses_first_index_over_nine_bits : (Instr.crcRange 512 0).wf = false := by decide
theorem test_wf_refuses_last_index_over_nine_bits : (Instr.crcRange 0 512).wf = false := by decide
theorem test_wf_refuses_position_over_nine_bits : (Instr.crcVerify 512 .block).wf = false := by decide
theorem test_wf_refuses_count_over_nine_bits : (Instr.frmDecs 512).wf = false := by decide
theorem test_wf_accepts_largest_fields : (Instr.crcRange 511 511).wf && (Instr.frmDecs 511).wf = true := by decide

/-! ## Words of the spec's encodings decode to their commands, and encode back -/

/-- R103: 0x0000_0001. -/
theorem test_word_crcInit : decoded 0x00000001#32 = some .crcInit ∧ encode .crcInit = 0x00000001#32 := by decide

/-- V-CRC-2: 0x0000_3102. -/
theorem test_word_crcByte :
    decoded 0x00003102#32 = some (.crcByte 0x31#8) ∧ encode (.crcByte 0x31#8) = 0x00003102#32 := by decide

/-- V-CRC-8: 0x0230_0003 is CRC.RANGE 0, 280. -/
theorem test_word_crcRange :
    decoded 0x02300003#32 = some (.crcRange 0 280) ∧ encode (.crcRange 0 280) = 0x02300003#32 := by decide

/-- V-VER-7: 0x0003_0504 is CRC.VERIFY 261, block. -/
theorem test_word_crcVerify :
    decoded 0x00030504#32 = some (.crcVerify 261 .block) ∧
      encode (.crcVerify 261 .block) = 0x00030504#32 := by decide

/-- V-ENC-7: 0x00FF_4210. -/
theorem test_word_frmEncs :
    decoded 0x00FF4210#32 = some (.frmEncs 0x42#8 255#8) ∧
      encode (.frmEncs 0x42#8 255#8) = 0x00FF4210#32 := by decide

/-- V-ENC-8: 0x0102_1011 is FRM.ENCBW 0x01, 0x10, 2. -/
theorem test_word_frmEncbw :
    decoded 0x01021011#32 = some (.frmEncbw 0x01#8 0x10#8 2#8) ∧
      encode (.frmEncbw 0x01#8 0x10#8 2#8) = 0x01021011#32 := by decide

/-- V-ENC-11: 0x0110_0312 is FRM.ENCBR 0x01, 0x03, 0x10. -/
theorem test_word_frmEncbr :
    decoded 0x01100312#32 = some (.frmEncbr 0x01#8 0x03#8 0x10#8) ∧
      encode (.frmEncbr 0x01#8 0x03#8 0x10#8) = 0x01100312#32 := by decide

/-- V-DEC-12: 0x0001_1920 is FRM.DECS 281. -/
theorem test_word_frmDecs :
    decoded 0x00011920#32 = some (.frmDecs 281) ∧ encode (.frmDecs 281) = 0x00011920#32 := by decide

/-- V-ILL-1 to V-ILL-10. -/
theorem test_words_illegal :
    decoded 0x00000000#32 = none ∧ decoded 0x000000FF#32 = none ∧ decoded 0x00000005#32 = none ∧
    decoded 0x00000101#32 = none ∧ decoded 0x00010001#32 = none ∧ decoded 0x00010002#32 = none ∧
    decoded 0x04000003#32 = none ∧ decoded 0x00040004#32 = none ∧ decoded 0x01000010#32 = none ∧
    decoded 0x00020020#32 = none := by decide +kernel

/-- A table word reaches the decoder with the table's bit numbers. -/
theorem test_decodeTableWord :
    decodeTableWord 32 0x02300003 = some (.crcRange 0 280) ∧ decodeTableWord 32 0 = none := by decide

/-! ## Commands: at most two tests each -/

/-- V-STEP-1 to V-STEP-10. -/
theorem test_crcStep :
    crcStep 0xFFFF#16 0x00#8 = 0x40BF#16 ∧ crcStep 0xFFFF#16 0x01#8 = 0x807E#16 ∧
    crcStep 0xFFFF#16 0x31#8 = 0x947E#16 ∧ crcStep 0xFFFF#16 0x55#8 = 0x7F7F#16 ∧
    crcStep 0xFFFF#16 0x80#8 = 0xE0BE#16 ∧ crcStep 0xFFFF#16 0xAA#8 = 0x3F3F#16 ∧
    crcStep 0xFFFF#16 0xFF#8 = 0x00FF#16 ∧ crcStep 0x0000#16 0x00#8 = 0x0000#16 ∧
    crcStep 0x0001#16 0x00#8 = 0xC0C1#16 ∧ crcStep 0x947E#16 0x00#8 = 0x2014#16 := by decide +kernel

/-- V-CRC-9: the nine ASCII digits give 0x4B37. -/
theorem test_crc_check_value :
    crcOfBytes [0x31#8, 0x32#8, 0x33#8, 0x34#8, 0x35#8, 0x36#8, 0x37#8, 0x38#8, 0x39#8] = 0x4B37#16 := by decide +kernel

/-- R103's example. -/
theorem test_crcInit_resets :
    checkRegs (exec .crcInit (State.reset.setCrc 0x947E#16)) = some (0#32, 0xFFFF#16, 0#16) := by decide +kernel

/-- V-CRC-2. -/
theorem test_crcByte_first : checkRegs (exec (.crcByte 0x31#8) State.reset) = some (0#32, 0x947E#16, 0#16) := by decide +kernel

/-- V-CRC-3: the step goes on from the accumulator. -/
theorem test_crcByte_continues :
    checkRegs (exec (.crcByte 0x00#8) (State.reset.setCrc 0x947E#16)) = some (0#32, 0x2014#16, 0#16) := by decide +kernel

/-- V-CRC-4. -/
theorem test_crcRange_middle : checkRegs (exec (.crcRange 1 2) base) = some (0#32, 0x2014#16, 0#16) := by decide +kernel

/-- V-CRC-6: an empty range wins over the bounds check. -/
theorem test_crcRange_empty_beyond_buffer :
    checkRegs (exec (.crcRange 300 299) (base.setCrc 0#16)) = some (0#32, 0xFFFF#16, 0#16) := by decide +kernel

/-- V-VER-1. -/
theorem test_crcVerify_match :
    checkRegs (exec (.crcVerify 4 .simple) base) = some (0x300#32, 0x2014#16, 0x2014#16) := by decide +kernel

/-- V-VER-3: the Block domain starts at index 0. -/
theorem test_crcVerify_block_mismatch :
    checkRegs (exec (.crcVerify 5 .block) base) = some (0x100#32, 0x2840#16, 0xAA20#16) := by decide +kernel

/-- V-ENC-6b. -/
theorem test_frmEncs_payload :
    bytesAre (frameRegs (exec (.frmEncs 0x31#8 3#8) (withPb [0x01#8, 0x02#8, 0x03#8])) 9)
      [0x55#8, 0x31#8, 0x03#8, 0x01#8, 0x02#8, 0x03#8, 0x49#8, 0x21#8, 0xAA#8] 9#16 0x2149#16 = true := by decide +kernel

/-- V-ENC-7b: an unwritten payload byte. -/
theorem test_frmEncs_unwritten :
    faultOf (exec (.frmEncs 0x31#8 1#8) State.reset) = some (.unwrittenPayload 0) := by decide +kernel

/-- V-ENC-8: the literal split. -/
theorem test_frmEncbw_literal :
    bytesAre (frameRegs (exec (.frmEncbw 0x01#8 0x10#8 2#8) ((withPb [0xDE#8, 0xAD#8]).setBaddr 0x1234#16)) 9)
      [0x01#8, 0x10#8, 0x02#8, 0x09#8, 0x34#8, 0xDE#8, 0xAD#8, 0xAA#8, 0xDF#8] 9#16 0xDFAA#16 = true := by decide +kernel

/-- V-ENC-10: N = 0 reads no PB byte. -/
theorem test_frmEncbw_empty :
    bytesAre (frameRegs (exec (.frmEncbw 0#8 0#8 0#8) State.reset) 7)
      [0x00#8, 0x00#8, 0x00#8, 0x00#8, 0x00#8, 0x24#8, 0x00#8] 7#16 0x0024#16 = true := by decide +kernel

/-- V-ENC-11. -/
theorem test_frmEncbr_literal :
    bytesAre (frameRegs (exec (.frmEncbr 0x01#8 0x03#8 0x10#8) (State.reset.setBaddr 0x1234#16)) 7)
      [0x01#8, 0x03#8, 0x10#8, 0x09#8, 0x34#8, 0x1F#8, 0xC6#8] 7#16 0xC61F#16 = true := by decide +kernel

/-- V-SPL-4, conventional: BADDR[8] is kept. -/
theorem test_frmEncbr_conventional :
    bytesAre (frameRegs (exec (.frmEncbr 0#8 0#8 0#8) ((State.reset.setBaddr 0x01FF#16).setAsplit true)) 7)
      [0x00#8, 0x00#8, 0x00#8, 0x01#8, 0xFF#8, 0x65#8, 0xD0#8] 7#16 0xD065#16 = true := by decide +kernel

/-- P3 line 2: a payload of two bytes, and trailing bytes ignored. -/
theorem test_frmDecs_trailing :
    decodeRegs (exec (.frmDecs 10)
      (withFb [0x55#8, 0x0A#8, 0x02#8, 0x11#8, 0x22#8, 0x2E#8, 0x75#8, 0xAA#8, 0x99#8, 0x99#8])) =
      some (0x300#32, 8#16, 0x0A#8, 2#8, 0x752E#16) := by decide +kernel

/-- V-DEC-6: the implied length runs past the received bytes. -/
theorem test_frmDecs_short :
    decodeRegs (exec (.frmDecs 6) (withFb [0x55#8, 0x31#8, 0x01#8, 0x14#8, 0x20#8, 0xAA#8])) =
      some (0x13#32, 0#16, 0#8, 0#8, 0#16) := by decide +kernel

/-! ## The host port -/

/-- The answer of a host access. -/
def answer (o : Outcome) : Option Response := (nextOf o).bind fun s => s.response

/-- V-BUS-1, V-BUS-3. -/
theorem test_bus_register_reads :
    answer (hostRead 0x308#10 .w32 State.reset) = some (.word 0x0000FFFF#32) ∧
    answer (hostRead 0x320#10 .w32 State.reset) = some (.word 0#32) := by decide +kernel

/-- V-BUS-4, V-BUS-5, V-BUS-6. -/
theorem test_bus_register_writes :
    (nextOf (hostWrite 0x308#10 (.d32 0x1234#32) State.reset)).map (fun s => s.crc) = some 0xFFFF#16 ∧
    (nextOf (hostWrite 0x300#10 (.d32 0xFFFFFFFF#32) State.reset)).map (readRegister .ctrl) = some 1#32 ∧
    (nextOf (hostWrite 0x310#10 (.d32 0xABCD1234#32) State.reset)).map (readRegister .baddr) = some 0x1234#32 := by
  decide +kernel

/-- V-BUS-7, V-BUS-8, V-BUS-9. -/
theorem test_bus_errors :
    answer (hostRead 0x118#10 .w8 State.reset) = some (.busError 0x118#10) ∧
    answer (hostRead 0x2FF#10 .w8 State.reset) = some (.busError 0x2FF#10) ∧
    answer (hostRead 0x302#10 .w32 State.reset) = some (.busError 0x302#10) ∧
    answer (hostRead 0x324#10 .w32 State.reset) = some (.busError 0x324#10) ∧
    answer (hostRead 0x300#10 .w8 State.reset) = some (.busError 0x300#10) ∧
    answer (hostRead 0x000#10 .w32 State.reset) = some (.busError 0x000#10) := by decide +kernel

/-- V-BUS-10: PB[254] is at 0x2FE. -/
theorem test_bus_last_payload_byte :
    (nextOf (hostWrite 0x2FE#10 (.d8 0x7F#8) State.reset)).bind (fun s => answer (hostRead 0x2FE#10 .w8 s)) =
      some (.byte 0x7F#8) := by decide +kernel

/-- P1 line 1 as a CMD write: the placed word is the one that the next step runs. -/
theorem test_step_runs_placed_word :
    (nextOf (step (State.reset.withFetchWord 32 0x00003110))).map (fun s => (s.crc, s.flen, s.inputs)) =
      some (0x2014#16, 6#16, []) := by decide +kernel

/-- V-ILL-1 as a CMD write. -/
theorem test_step_illegal_word :
    (nextOf (step (State.reset.withFetchWord 32 0))).map (fun s => (s.status, s.crc)) =
      some (1#32, 0xFFFF#16) := by decide +kernel

/-! ## Witnesses: states and operands that meet each statement's hypotheses, clause by clause, at boundary values -/

/-- A buffer whose first `count` bytes are written with one value. -/
def filled (count : Nat) (b : Byte) : Memory := (List.range count).map fun i => (i, b)

/-- Reset with the largest Simple Frame in FB: 255 payload bytes of 0, checksum bytes 0 (V-DEC-10, its end mended). -/
def longFrame : State := State.reset.setFb
  (((filled 261 0#8).write 0 0x55#8).write 2 255#8 |>.write 260 0xAA#8)

/-- V-CRC-5 (empty), V-CRC-7 (FB[279] alone) and a buffer that differs outside the range. -/
theorem witness_CrcOfRangeFoldsAscendingBytes :
    (∃ (s : Nat) (e : Int), e < s) ∧
    (∃ (m : Memory) (s : Nat) (e : Int) (bytes : List Byte), (bytes.length : Int) = e + 1 - s ∧ m.holds s bytes ∧
      bytes ≠ []) ∧
    (∃ (m m' : Memory) (s : Nat) (e : Int), (∀ j : Nat, s ≤ j → (j : Int) ≤ e → m.read j = m'.read j) ∧ m ≠ m') := by
  refine ⟨⟨0, -1, by decide⟩, ⟨[(279, 0#8)], 279, 279, [0#8], by decide, by decide, by decide⟩,
    ⟨[(0, 0#8)], [(0, 1#8)], 1, 1, fun j hj _ => ?_, by decide⟩⟩
  have : ¬ 0 = j := by omega
  simp [Memory.read, this]

/-- FB[0] and FB[1], the lowest checksum position. -/
theorem witness_ChecksumBytesReassemble :
    ∃ (m : Memory) (p : Nat) (hi lo : Byte), 1 ≤ p ∧ m.read (p - 1) = some lo ∧ m.read p = some hi ∧ hi ≠ lo :=
  ⟨[(0, 0x55#8), (1, 0x31#8)], 1, 0x31#8, 0x55#8, by decide⟩

/-- V-CRC-7, and the whole of FB (V-CRC-8b's range). -/
theorem witness_CrcRangeComputesChecksum :
    (∃ (s : State) (first last : Nat) (bytes : List Byte),
      first ≤ last ∧ last < 280 ∧ bytes.length = last + 1 - first ∧ s.fb.holds first bytes ∧ first = 279) ∧
    (∃ (s : State) (first last : Nat) (bytes : List Byte),
      first ≤ last ∧ last < 280 ∧ bytes.length = last + 1 - first ∧ s.fb.holds first bytes ∧ first = 0 ∧ last = 279) :=
  ⟨⟨State.reset.setFb [(279, 0#8)], 279, 279, [0#8], by decide +kernel⟩,
    ⟨State.reset.setFb (filled 280 0#8), 0, 279, List.replicate 280 0#8, by decide +kernel⟩⟩

/-- V-CRC-6. -/
theorem witness_CrcRangeEmptyGivesInitialState : ∃ first last : Nat, last < first ∧ 280 ≤ last :=
  ⟨300, 299, by decide⟩

/-- V-VER-4 (P = 1, an empty domain), P = 1 in a Block Frame, and V-VER-5c (P = 279). -/
theorem witness_CrcVerifyComparesChecksums :
    (∃ (s : State) (p : Nat) (variant : Variant) (domain : List Byte) (lo hi : Byte), 1 ≤ p ∧ p < 280 ∧
      domain.length = p - 1 - (if variant = .block then 0 else 1) ∧
      s.fb.holds (if variant = .block then 0 else 1) domain ∧
      s.fb.read (p - 1) = some lo ∧ s.fb.read p = some hi ∧ p = 1 ∧ variant = .simple) ∧
    (∃ (s : State) (p : Nat) (variant : Variant) (domain : List Byte) (lo hi : Byte), 1 ≤ p ∧ p < 280 ∧
      domain.length = p - 1 - (if variant = .block then 0 else 1) ∧
      s.fb.holds (if variant = .block then 0 else 1) domain ∧
      s.fb.read (p - 1) = some lo ∧ s.fb.read p = some hi ∧ p = 279 ∧ variant = .block) :=
  ⟨⟨base, 1, .simple, [], 0x55#8, 0x31#8, by decide +kernel⟩,
    ⟨State.reset.setFb (filled 280 0#8), 279, .block, List.replicate 278 0#8, 0#8, 0#8, by decide +kernel⟩⟩

/-- V-CRC-8, V-VER-5, V-VER-5b, V-DEC-12. -/
theorem witness_OperandOutsideFrameBufferGivesRange :
    (∃ first last : Nat, first ≤ last ∧ 280 ≤ last ∧ last < 281) ∧
    (∃ p : Nat, p = 0 ∨ 280 ≤ p) ∧ (∃ p : Nat, (p = 0 ∨ 280 ≤ p) ∧ p = 280) ∧ (∃ n : Nat, 280 < n ∧ n < 282) :=
  ⟨⟨0, 280, by decide⟩, ⟨0, by decide⟩, ⟨280, by decide⟩, ⟨281, by decide⟩⟩

/-- V-CRC-4. -/
theorem witness_IncrementalAndRangeChecksumsAgree :
    ∃ (s : State) (first last : Nat) (bytes : List Byte),
      first ≤ last ∧ last < 280 ∧ bytes.length = last + 1 - first ∧ s.fb.holds first bytes ∧ 1 < bytes.length :=
  ⟨base, 1, 2, [0x31#8, 0x00#8], by decide +kernel⟩

/-- V-ENC-3 (L = 0) and L = 255. -/
theorem witness_FrmEncsBuildsSimpleFrame :
    (∃ (s : State) (l : Byte) (payload : List Byte), payload.length = l.toNat ∧ s.pb.holds 0 payload ∧ l = 0#8) ∧
    (∃ (s : State) (l : Byte) (payload : List Byte), payload.length = l.toNat ∧ s.pb.holds 0 payload ∧ l = 255#8) :=
  ⟨⟨State.reset, 0#8, [], by decide +kernel⟩,
    ⟨State.reset.setPb (filled 255 0#8), 255#8, List.replicate 255 0#8, by decide +kernel⟩⟩

/-- V-ENC-10 (N = 0) and V-ENC-9 (N = 255). -/
theorem witness_FrmEncbwBuildsBlockWriteFrame :
    (∃ (s : State) (n : Byte) (payload : List Byte), payload.length = n.toNat ∧ s.pb.holds 0 payload ∧ n = 0#8) ∧
    (∃ (s : State) (n : Byte) (payload : List Byte), payload.length = n.toNat ∧ s.pb.holds 0 payload ∧ n = 255#8) :=
  ⟨⟨State.reset, 0#8, [], by decide +kernel⟩,
    ⟨State.reset.setPb (filled 255 0xFF#8), 255#8, List.replicate 255 0xFF#8, by decide +kernel⟩⟩

/-- Each encoder gives a next state: V-ENC-3, V-ENC-10, V-ENC-11. -/
theorem witness_AppendedChecksumIsOfTheDomainInFrameBuffer :
    (∃ (s t : State) (c l : Byte), exec (.frmEncs c l) s = .next t) ∧
    (∃ (s t : State) (d c n : Byte), exec (.frmEncbw d c n) s = .next t) ∧
    (∃ (s t : State) (d c n : Byte), exec (.frmEncbr d c n) s = .next t) :=
  ⟨⟨State.reset, _, 0x31#8, 0#8, rfl⟩, ⟨State.reset, _, 0#8, 0#8, 0#8, rfl⟩, ⟨State.reset, _, 1#8, 3#8, 0x10#8, rfl⟩⟩

/-- As the statement before it, the Block encoders one by one. -/
theorem witness_EncodedFramesVerify :
    (∃ (s t : State) (c l : Byte), exec (.frmEncs c l) s = .next t) ∧
    (∃ (s t : State) (d c n : Byte), exec (.frmEncbw d c n) s = .next t ∨ exec (.frmEncbr d c n) s = .next t) ∧
    (∃ (s t : State) (d c n : Byte), exec (.frmEncbr d c n) s = .next t) :=
  ⟨⟨State.reset, _, 0x31#8, 0#8, rfl⟩, ⟨State.reset, _, 0#8, 0#8, 0#8, .inl rfl⟩,
    ⟨State.reset, _, 1#8, 3#8, 0x10#8, rfl⟩⟩

/-- V-DEC-1 (n = F = 6), and L = 255 with n = 280. -/
theorem witness_FrmDecsReportsAcceptedFrame :
    (∃ (s : State) (n : Nat) (c l lo hi : Byte) (payload : List Byte),
      payload.length = l.toNat ∧ l.toNat + 6 ≤ n ∧ n ≤ 280 ∧
      s.fb.holds 0 ([0x55#8, c, l] ++ payload ++ [lo, hi, 0xAA#8]) ∧ n = 6) ∧
    (∃ (s : State) (n : Nat) (c l lo hi : Byte) (payload : List Byte),
      payload.length = l.toNat ∧ l.toNat + 6 ≤ n ∧ n ≤ 280 ∧
      s.fb.holds 0 ([0x55#8, c, l] ++ payload ++ [lo, hi, 0xAA#8]) ∧ n = 280 ∧ l = 255#8) :=
  ⟨⟨base, 6, 0x31#8, 0#8, 0x14#8, 0x20#8, [], by decide +kernel⟩,
    ⟨longFrame, 280, 0#8, 255#8, 0#8, 0#8, List.replicate 255 0#8, by decide +kernel⟩⟩

/-- V-DEC-4, V-DEC-5 with n = 6 and with n = 280, V-DEC-11, V-DEC-6, V-DEC-7, and L = 255 with n = F = 261. -/
theorem witness_FrmDecsNamesFirstFailingCheck :
    (∃ n : Nat, n < 6 ∧ n = 5) ∧
    (∃ (s : State) (n : Nat) (b : Byte), 6 ≤ n ∧ n ≤ 280 ∧ s.fb.read 0 = some b ∧ b ≠ 0x55#8 ∧ n = 6) ∧
    (∃ (s : State) (n : Nat) (b : Byte), 6 ≤ n ∧ n ≤ 280 ∧ s.fb.read 0 = some b ∧ b ≠ 0x55#8 ∧ n = 280) ∧
    (∃ (s : State) (n : Nat) (l : Byte), 6 ≤ n ∧ n ≤ 280 ∧ s.fb.read 0 = some 0x55#8 ∧ s.fb.read 2 = some l ∧
      n < l.toNat + 6 ∧ n = 260) ∧
    (∃ (s : State) (n : Nat) (l : Byte), 6 ≤ n ∧ n ≤ 280 ∧ s.fb.read 0 = some 0x55#8 ∧ s.fb.read 2 = some l ∧
      n < l.toNat + 6 ∧ n = 6) ∧
    (∃ (s : State) (n : Nat) (l e : Byte), n ≤ 280 ∧ s.fb.read 0 = some 0x55#8 ∧ s.fb.read 2 = some l ∧
      l.toNat + 6 ≤ n ∧ s.fb.read (l.toNat + 5) = some e ∧ e ≠ 0xAA#8 ∧ n = 6) ∧
    (∃ (s : State) (n : Nat) (l e : Byte), n ≤ 280 ∧ s.fb.read 0 = some 0x55#8 ∧ s.fb.read 2 = some l ∧
      l.toNat + 6 ≤ n ∧ s.fb.read (l.toNat + 5) = some e ∧ e ≠ 0xAA#8 ∧ n = 261) :=
  ⟨⟨5, by decide⟩, ⟨withFb [0x54#8], 6, 0x54#8, by decide +kernel⟩, ⟨withFb [0x54#8], 280, 0x54#8, by decide +kernel⟩,
    ⟨longFrame, 260, 255#8, by decide +kernel⟩, ⟨withFb [0x55#8, 0x31#8, 0x01#8], 6, 1#8, by decide +kernel⟩,
    ⟨withFb [0x55#8, 0x31#8, 0x00#8, 0x14#8, 0x20#8, 0xAB#8], 6, 0#8, 0xAB#8, by decide +kernel⟩,
    ⟨State.reset.setFb (longFrame.fb.write 260 0#8), 261, 255#8, 0#8, by decide +kernel⟩⟩

/-- V-ENC-3 and V-ENC-6b. -/
theorem witness_DecodingAnEncodedFrameRoundTrips :
    (∃ (s t : State) (c l : Byte), exec (.frmEncs c l) s = .next t ∧ l = 0#8) ∧
    (∃ (s t : State) (c l : Byte), exec (.frmEncs c l) s = .next t ∧ l = 3#8) :=
  ⟨⟨State.reset, _, 0x31#8, 0#8, rfl, rfl⟩, ⟨withPb [1#8, 2#8, 3#8], _, 0x31#8, 3#8, rfl, rfl⟩⟩

/-- V-DEC-8: other bytes after the frame, up to n = 280 and at n = F + 1; and a frame with an unwritten payload byte. -/
theorem witness_FrmDecsIgnoresBytesBeyondFrame :
    (∃ (s t : State) (m : Memory) (n : Nat) (l : Byte),
      s.fb.read 2 = some l ∧ l.toNat + 6 < n ∧ n ≤ 280 ∧ (∀ j : Nat, j < l.toNat + 6 → m.read j = s.fb.read j) ∧
      exec (.frmDecs (l.toNat + 6)) s = .next t ∧ statusErr t.status = 0#4 ∧ n = 280 ∧ m ≠ s.fb) ∧
    (∃ (s : State) (m : Memory) (n : Nat) (l : Byte) (r : Fault),
      s.fb.read 2 = some l ∧ l.toNat + 6 < n ∧ n ≤ 280 ∧ (∀ j : Nat, j < l.toNat + 6 → m.read j = s.fb.read j) ∧
      exec (.frmDecs (l.toNat + 6)) s = .fault r ∧ n = 7) :=
  ⟨⟨base, _, base.fb.writeBytes 6 [0x55#8, 0x55#8], 280, 0#8, by decide +kernel, by decide, by decide,
    by decide +kernel, rfl, by decide +kernel, rfl, by decide +kernel⟩,
    ⟨State.reset.setFb [(0, 0x55#8), (2, 0#8), (5, 0xAA#8)], [(0, 0x55#8), (2, 0#8), (5, 0xAA#8)], 7, 0#8, _, by decide,
      by decide, by decide, fun _ _ => rfl, rfl, rfl⟩⟩

/-- Some command gives a next state. -/
theorem witness_OversizeIsNeverReported : ∃ (i : Instr) (s t : State), exec i s = .next t ∧ t.status ≠ 0#32 :=
  ⟨.frmDecs 5, State.reset, _, rfl, by decide +kernel⟩

/-- V-DEC-12, V-ILL-1, V-BUS-8, and a 16-bit write. -/
theorem witness_FailuresArePrecise :
    (∃ (i : Instr) (s t : State), exec i s = .next t ∧ statusErr t.status ≠ 0#4) ∧
    (∃ (w : Word) (s t : State), issueCommand w s = .next t ∧ statusErr t.status ≠ 0#4) ∧
    (∃ (a : PortAddr) (width : Width) (s t : State), admittedWidth a ≠ some width ∧ hostRead a width s = .next t) ∧
    (∃ (a : PortAddr) (data : WriteData) (s t : State), admittedWidth a ≠ some data.width ∧
      hostWrite a data s = .next t) :=
  ⟨⟨.frmDecs 281, State.reset, _, rfl, by decide +kernel⟩, ⟨0#32, State.reset, _, rfl, by decide +kernel⟩,
    ⟨0x300#10, .w8, State.reset, _, by decide, rfl⟩, ⟨0x000#10, .d16 0#16, State.reset, _, by decide, rfl⟩⟩

/-- Some command gives a next state. -/
theorem witness_CommandsLeaveOperandStateUnchanged : ∃ (i : Instr) (s t : State), exec i s = .next t :=
  ⟨.frmEncbr 1#8 3#8 0x10#8, State.reset, _, rfl⟩

/-- An encoder (FLEN = 7), and a command that is no encoder. -/
theorem witness_OnlyEncodersWriteFrameBuffer :
    (∃ (i : Instr) (s t : State) (j : Nat), exec i s = .next t ∧ t.flen.toNat ≤ j ∧ j = 7) ∧
    (∃ (i : Instr) (s t : State), exec i s = .next t ∧ (∀ c l : Byte, i ≠ .frmEncs c l) ∧
      (∀ d c n : Byte, i ≠ .frmEncbw d c n) ∧ (∀ d c n : Byte, i ≠ .frmEncbr d c n)) :=
  ⟨⟨.frmEncbr 1#8 3#8 0x10#8, State.reset, _, 7, rfl, by decide +kernel, rfl⟩,
    ⟨.crcByte 0x31#8, State.reset, _, rfl, nofun, nofun, nofun⟩⟩

/-- CRC.VERIFY, which is neither FRM.DECS nor an encoder, and CRC.BYTE, which is none of the writers. -/
theorem witness_ResultRegistersHaveOnlyTheirWriters :
    (∃ (i : Instr) (s t : State), exec i s = .next t ∧ (∀ n : Nat, i ≠ .frmDecs n) ∧ t.rcrc ≠ s.rcrc) ∧
    (∃ (i : Instr) (s t : State), exec i s = .next t ∧ (∀ n : Nat, i ≠ .frmDecs n) ∧
      (∀ (p : Nat) (v : Variant), i ≠ .crcVerify p v) ∧ (∀ c l : Byte, i ≠ .frmEncs c l) ∧
      (∀ d c n : Byte, i ≠ .frmEncbw d c n) ∧ (∀ d c n : Byte, i ≠ .frmEncbr d c n)) :=
  ⟨⟨.crcVerify 4 .simple, base, _, rfl, nofun, by decide +kernel⟩,
    ⟨.crcByte 0x31#8, State.reset, _, rfl, nofun, nofun, nofun, nofun, nofun⟩⟩

/-- V-VER-1 sets CKDONE with a match, V-VER-2 with a mismatch, CRC.INIT and V-ILL-1 clear it. -/
theorem witness_CheckFlagsComeFromAComparison :
    (∃ (w : Word) (s t : State), issueCommand w s = .next t ∧ statusCkdone t.status = true ∧ t.crc = t.rcrc) ∧
    (∃ (w : Word) (s t : State), issueCommand w s = .next t ∧ statusCkdone t.status = true ∧ t.crc ≠ t.rcrc) ∧
    (∃ (w : Word) (s t : State), issueCommand w s = .next t ∧ statusCkdone t.status = false ∧ w = 1#32) ∧
    (∃ (w : Word) (s t : State), issueCommand w s = .next t ∧ statusCkdone t.status = false ∧ w = 0#32) :=
  ⟨⟨0x00000404#32, base, _, rfl, by decide +kernel, by decide +kernel⟩,
    ⟨0x00020404#32, base, _, rfl, by decide +kernel, by decide +kernel⟩,
    ⟨1#32, State.reset, _, rfl, by decide +kernel, rfl⟩, ⟨0#32, State.reset, _, rfl, by decide +kernel, rfl⟩⟩

/-- Two states that differ in STATUS and the accumulator, or in the result registers: a command that completes, an encode
command, an accepted FRM.DECS, and a command that stops. -/
theorem witness_CommandsReadOnlyTheirInputs :
    (∃ (i : Instr) (s u t : State), s.fb = u.fb ∧ s.pb = u.pb ∧ s.asplit = u.asplit ∧ s.baddr = u.baddr ∧
      (∀ a, i = .crcByte a → s.crc = u.crc) ∧ exec i s = .next t ∧ statusErr t.status = 0#4 ∧ s ≠ u) ∧
    (∃ (c l : Byte) (s u t : State), s.fb = u.fb ∧ s.pb = u.pb ∧ s.asplit = u.asplit ∧ s.baddr = u.baddr ∧
      exec (.frmEncs c l) s = .next t ∧ s.flen ≠ u.flen) ∧
    (∃ (n : Nat) (s u t : State), s.fb = u.fb ∧ s.pb = u.pb ∧ s.asplit = u.asplit ∧ s.baddr = u.baddr ∧
      exec (.frmDecs n) s = .next t ∧ statusErr t.status = 0#4 ∧ statusCkdone t.status = true ∧ s.flen ≠ u.flen ∧
      s.rcmd ≠ u.rcmd ∧ s.rplen ≠ u.rplen) ∧
    (∃ (i : Instr) (s u : State) (r : Fault), s.fb = u.fb ∧ s.pb = u.pb ∧ s.asplit = u.asplit ∧ s.baddr = u.baddr ∧
      (∀ a, i = .crcByte a → s.crc = u.crc) ∧ exec i s = .fault r ∧ s ≠ u) :=
  ⟨⟨.crcRange 1 2, base, (base.setCrc 0x947E#16).setStatus 1#32, _, rfl, rfl, rfl, rfl, nofun, rfl, by decide +kernel,
      by decide +kernel⟩,
    ⟨0x31#8, 0#8, base, base.setFlen 9#16, _, rfl, rfl, rfl, rfl, rfl, by decide +kernel⟩,
    ⟨6, base, ((base.setFlen 9#16).setRcmd 0x0A#8).setRplen 3#8, _, rfl, rfl, rfl, rfl, rfl, by decide +kernel,
      by decide +kernel, by decide +kernel, by decide +kernel, by decide +kernel⟩,
    ⟨.crcRange 0 0, State.reset, State.reset.setCrc 0#16, _, rfl, rfl, rfl, rfl, nofun, rfl, by decide +kernel⟩⟩

/-- V-DEC-14 and V-ENC-7b. -/
theorem witness_CommandsFaultOnlyAtUnwrittenBytes :
    (∃ (i : Instr) (s : State), exec i s = .fault (.unwrittenFrame 0)) ∧
    (∃ (i : Instr) (s : State), exec i s = .fault (.unwrittenPayload 0)) :=
  ⟨⟨.frmDecs 6, State.reset, rfl⟩, ⟨.frmEncs 0x31#8 1#8, State.reset, rfl⟩⟩

/-- The last FB byte unwritten, P = 1 (below the Simple domain) and P = 279, and payload bytes 0 and 254. -/
theorem witness_UnwrittenByteStopsCommand :
    (∃ (s : State) (first last k : Nat), last < 280 ∧ first ≤ k ∧ k ≤ last ∧ s.fb.read k = none ∧
      (∀ j, first ≤ j → j < k → s.fb.read j ≠ none) ∧ k = 279 ∧ first = 279) ∧
    (∃ (s : State) (p : Nat) (v : Variant) (k : Nat), 1 ≤ p ∧ p < 280 ∧
      min (p - 1) (if v = .block then 0 else 1) ≤ k ∧ k ≤ p ∧ s.fb.read k = none ∧
      (∀ j, min (p - 1) (if v = .block then 0 else 1) ≤ j → j < k → s.fb.read j ≠ none) ∧ p = 1 ∧ v = .simple) ∧
    (∃ (s : State) (p : Nat) (v : Variant) (k : Nat), 1 ≤ p ∧ p < 280 ∧
      min (p - 1) (if v = .block then 0 else 1) ≤ k ∧ k ≤ p ∧ s.fb.read k = none ∧
      (∀ j, min (p - 1) (if v = .block then 0 else 1) ≤ j → j < k → s.fb.read j ≠ none) ∧ p = 279 ∧ k = 279) ∧
    (∃ (s : State) (l : Byte) (k : Nat), k < l.toNat ∧ s.pb.read k = none ∧ (∀ j, j < k → s.pb.read j ≠ none) ∧
      l = 1#8) ∧
    (∃ (s : State) (n : Byte) (k : Nat), k < n.toNat ∧ s.pb.read k = none ∧ (∀ j, j < k → s.pb.read j ≠ none) ∧
      n = 255#8 ∧ k = 254) := by
  refine ⟨⟨State.reset, 279, 279, 279, by decide, by decide, by decide, by decide, fun j h h' => by omega, by decide⟩,
    ⟨State.reset, 1, .simple, 0, by decide, by decide, by decide, by decide, by decide, fun j _ h => by omega, by decide⟩,
    ⟨State.reset.setFb (filled 279 0#8), 279, .block, 279, by decide, by decide, by decide, by decide, by decide +kernel,
      fun j _ h => ?_, by decide⟩,
    ⟨State.reset, 1#8, 0, by decide +kernel⟩, ⟨State.reset.setPb (filled 254 0#8), 255#8, 254, by decide +kernel⟩⟩
  have all : ∀ j, j < 279 → (State.reset.setFb (filled 279 0#8)).fb.read j ≠ none := by decide +kernel
  exact all j h

/-- Nothing written; FB[0] alone; FB[0] and FB[2]; a frame whose checksum's low byte is missing; n = 6 and n = 280. -/
theorem witness_UnwrittenByteStopsDecoder :
    (∃ (s : State) (n : Nat), 6 ≤ n ∧ n ≤ 280 ∧ s.fb.read 0 = none ∧ n = 6) ∧
    (∃ (s : State) (n : Nat), 6 ≤ n ∧ n ≤ 280 ∧ s.fb.read 0 = some 0x55#8 ∧ s.fb.read 2 = none ∧ n = 280) ∧
    (∃ (s : State) (n : Nat) (l : Byte), l.toNat + 6 ≤ n ∧ n ≤ 280 ∧ s.fb.read 0 = some 0x55#8 ∧
      s.fb.read 2 = some l ∧ s.fb.read (l.toNat + 5) = none ∧ l = 255#8) ∧
    (∃ (s : State) (n : Nat) (l : Byte) (k : Nat), l.toNat + 6 ≤ n ∧ n ≤ 280 ∧ s.fb.read 0 = some 0x55#8 ∧
      s.fb.read 2 = some l ∧ s.fb.read (l.toNat + 5) = some 0xAA#8 ∧ 1 ≤ k ∧ k ≤ l.toNat + 4 ∧ s.fb.read k = none ∧
      (∀ j, 1 ≤ j → j < k → s.fb.read j ≠ none) ∧ k = 1) ∧
    (∃ (s : State) (n : Nat) (l : Byte) (k : Nat), l.toNat + 6 ≤ n ∧ n ≤ 280 ∧ s.fb.read 0 = some 0x55#8 ∧
      s.fb.read 2 = some l ∧ s.fb.read (l.toNat + 5) = some 0xAA#8 ∧ 1 ≤ k ∧ k ≤ l.toNat + 4 ∧ s.fb.read k = none ∧
      (∀ j, 1 ≤ j → j < k → s.fb.read j ≠ none) ∧ k = 4 ∧ l = 0#8) := by
  refine ⟨⟨State.reset, 6, by decide⟩, ⟨withFb [0x55#8], 280, by decide +kernel⟩,
    ⟨State.reset.setFb [(0, 0x55#8), (2, 255#8)], 261, 255#8, by decide +kernel⟩,
    ⟨State.reset.setFb [(0, 0x55#8), (2, 0#8), (5, 0xAA#8)], 6, 0#8, 1, by decide, by decide, by decide, by decide,
      by decide, by decide, by decide, by decide, fun j h h' => by omega, rfl⟩,
    ⟨State.reset.setFb [(0, 0x55#8), (1, 0#8), (2, 0#8), (3, 0#8), (5, 0xAA#8)], 6, 0#8, 4, by decide, by decide,
      by decide, by decide, by decide, by decide, by decide, by decide, fun j h h' => ?_, by decide⟩⟩
  have all : ∀ j, j < 4 →
    (State.reset.setFb [(0, 0x55#8), (1, 0#8), (2, 0#8), (3, 0#8), (5, 0xAA#8)]).fb.read j ≠ none := by decide
  exact all j h'

/-- The largest operands of a field each. -/
theorem witness_DecodeOfEncodeIsTheCommand :
    (∃ i : Instr, i.wf = true ∧ i = .crcRange 511 511) ∧ (∃ i : Instr, i.wf = true ∧ i = .frmEncbw 255#8 255#8 255#8) :=
  ⟨⟨_, by decide, rfl⟩, ⟨_, by decide, rfl⟩⟩

/-- V-ENC-9's word. -/
theorem witness_EncodeOfDecodeIsTheWord : ∃ (w : Word) (i : Instr), decode w = .ok i ∧ w = 0xFFFFFF11#32 :=
  ⟨_, .frmEncbw 255#8 255#8 255#8, by decide, rfl⟩

/-- V-CRC-2's word decodes and V-ILL-7's does not. -/
theorem witness_DecoderFollowsOpcodeMap :
    (∃ (w : Word) (i : Instr), decode w = .ok i ∧ w = 0x00003102#32) ∧
    (∃ (w : Word) (e : Illegal), decode w = .error e ∧ w = 0x04000003#32) ∧
    (∃ w : Word, (∀ r ∈ opcodeMap, r.selects w = false) ∧ w = 0x04000003#32) :=
  ⟨⟨_, .crcByte 0x31#8, by decide, rfl⟩, ⟨_, .reservedBitsSet 3#8, by decide, rfl⟩, ⟨_, by decide, rfl⟩⟩

/-- V-ILL-2, V-ILL-4, V-ILL-6, V-ILL-7, V-ILL-8, V-ILL-9 and V-ILL-10, one for each kind of illegal word. -/
theorem witness_IllegalWordReportsIllegal :
    (∃ w : Word, w.extractLsb' 0 8 ∉ [0x01#8, 0x02#8, 0x03#8, 0x04#8, 0x10#8, 0x11#8, 0x12#8, 0x20#8]) ∧
    (∃ w : Word, w.extractLsb' 0 8 = 0x01#8 ∧ w.extractLsb' 8 24 ≠ 0#24) ∧
    (∃ w : Word, w.extractLsb' 0 8 = 0x02#8 ∧ w.extractLsb' 16 16 ≠ 0#16) ∧
    (∃ w : Word, w.extractLsb' 0 8 = 0x03#8 ∧ w.extractLsb' 26 6 ≠ 0#6) ∧
    (∃ w : Word, w.extractLsb' 0 8 = 0x04#8 ∧ w.extractLsb' 18 14 ≠ 0#14) ∧
    (∃ w : Word, w.extractLsb' 0 8 = 0x10#8 ∧ w.extractLsb' 24 8 ≠ 0#8) ∧
    (∃ w : Word, w.extractLsb' 0 8 = 0x20#8 ∧ w.extractLsb' 17 15 ≠ 0#15) :=
  ⟨⟨0x000000FF#32, by decide⟩, ⟨0x00000101#32, by decide⟩, ⟨0x00010002#32, by decide⟩, ⟨0x04000003#32, by decide⟩,
    ⟨0x00040004#32, by decide⟩, ⟨0x01000010#32, by decide⟩, ⟨0x00020020#32, by decide⟩⟩

/-- P1 line 1, with an access behind it. -/
theorem witness_StepRunsTheDecodedCommand :
    ∃ (s : State) (w : Word) (i : Instr) (rest : List Input),
      s.inputs = .write 0x320#10 (.d32 w) :: rest ∧ decode w = .ok i ∧ rest ≠ [] :=
  ⟨State.reset.setInputs [.write 0x320#10 (.d32 0x00003110#32), .read 0x304#10 .w32], 0x00003110#32,
    .frmEncs 0x31#8 0#8, [.read 0x304#10 .w32], rfl, by decide, by decide⟩

/-- The largest index operand. -/
theorem witness_PlacedCommandRunsNext : ∃ i : Instr, i.wf = true ∧ i = .frmDecs 511 := ⟨_, by decide, rfl⟩

/-- Two reads pending; and none. -/
theorem witness_StepServesInputsInOrder :
    (∃ (s t : State) (x : Input) (rest : List Input), s.inputs = x :: rest ∧ step s = .next t ∧ rest ≠ []) ∧
    (∃ s : State, s.inputs = []) :=
  ⟨⟨State.reset.setInputs [.read 0x304#10 .w32, .reset], _, _, [.reset], rfl, rfl, by decide⟩, ⟨State.reset, rfl⟩⟩

/-- A read pending; a write pending. -/
theorem witness_StepServesTheHostAccess :
    (∃ (s : State) (a : PortAddr) (width : Width) (rest : List Input), s.inputs = .read a width :: rest) ∧
    (∃ (s : State) (a : PortAddr) (data : WriteData) (rest : List Input), s.inputs = .write a data :: rest) :=
  ⟨⟨State.reset.setInputs [.read 0x304#10 .w32], 0x304#10, .w32, [], rfl⟩,
    ⟨State.reset.setInputs [.write 0x2FE#10 (.d8 0x7F#8)], 0x2FE#10, .d8 0x7F#8, [], rfl⟩⟩

/-- FB[0], FB[279], PB[0] and PB[254], each written; FB[279] and PB[254], each unwritten. -/
theorem witness_BufferAccessesReachOneByte :
    (∃ (s : State) (a : PortAddr) (v : Byte), a.toNat ≤ 0x117 ∧ s.fb.read a.toNat = some v ∧ a = 0x000#10) ∧
    (∃ (s : State) (a : PortAddr) (v : Byte), a.toNat ≤ 0x117 ∧ s.fb.read a.toNat = some v ∧ a = 0x117#10) ∧
    (∃ (s : State) (a : PortAddr) (v : Byte), 0x200 ≤ a.toNat ∧ a.toNat ≤ 0x2FE ∧
      s.pb.read (a.toNat - 0x200) = some v ∧ a = 0x200#10) ∧
    (∃ (s : State) (a : PortAddr) (v : Byte), 0x200 ≤ a.toNat ∧ a.toNat ≤ 0x2FE ∧
      s.pb.read (a.toNat - 0x200) = some v ∧ a = 0x2FE#10) ∧
    (∃ (s : State) (a : PortAddr), a.toNat ≤ 0x117 ∧ s.fb.read a.toNat = none ∧ a = 0x117#10) ∧
    (∃ (s : State) (a : PortAddr), 0x200 ≤ a.toNat ∧ a.toNat ≤ 0x2FE ∧ s.pb.read (a.toNat - 0x200) = none ∧
      a = 0x2FE#10) :=
  ⟨⟨base, 0x000#10, 0x55#8, by decide +kernel⟩, ⟨State.reset.setFb [(279, 1#8)], 0x117#10, 1#8, by decide +kernel⟩,
    ⟨State.reset.setPb [(0, 1#8)], 0x200#10, 1#8, by decide +kernel⟩,
    ⟨State.reset.setPb [(254, 1#8)], 0x2FE#10, 1#8, by decide +kernel⟩,
    ⟨State.reset, 0x117#10, by decide⟩, ⟨State.reset, 0x2FE#10, by decide⟩⟩

/-- V-BUS-7 to V-BUS-9, and accesses of 16 bits. -/
theorem witness_NotAdmittedAccessRaisesBusError :
    admittedWidth 0x118#10 ≠ some .w8 ∧ admittedWidth 0x1FF#10 ≠ some .w8 ∧ admittedWidth 0x2FF#10 ≠ some .w8 ∧
    admittedWidth 0x302#10 ≠ some .w32 ∧ admittedWidth 0x324#10 ≠ some .w32 ∧ admittedWidth 0x300#10 ≠ some .w8 ∧
    admittedWidth 0x000#10 ≠ some .w32 ∧ admittedWidth 0x304#10 ≠ some (WriteData.d16 0#16).width ∧
    admittedWidth 0x117#10 ≠ some (WriteData.d32 0#32).width := by decide

/-- A register read, a read of a hole, a buffer write, and a register write. -/
theorem witness_HostAccessSideEffects :
    (∃ (s t : State) (a : PortAddr) (width : Width), hostRead a width s = .next t ∧ a = 0x308#10) ∧
    (∃ (s t : State) (a : PortAddr) (width : Width), hostRead a width s = .next t ∧ a = 0x118#10) ∧
    (∃ (s t : State) (a : PortAddr) (data : WriteData), a ≠ 0x320#10 ∧ hostWrite a data s = .next t ∧ a = 0x000#10) ∧
    (∃ (s t : State) (a : PortAddr) (data : WriteData), a ≠ 0x320#10 ∧ hostWrite a data s = .next t ∧ a = 0x310#10) :=
  ⟨⟨State.reset, _, _, .w32, rfl, rfl⟩, ⟨State.reset, _, _, .w8, rfl, rfl⟩,
    ⟨State.reset, _, _, .d8 1#8, by decide, rfl, rfl⟩, ⟨State.reset, _, _, .d32 0xABCD1234#32, by decide, rfl, rfl⟩⟩

/-- A marked machine that reads on, and a clear one that meets a BusError. -/
theorem witness_FaultMarkIsStickyAndComesFromBusError :
    (∃ s t : State, step s = .next t ∧ s.inputs.head? ≠ some .reset ∧ s.fault ≠ none) ∧
    (∃ s t : State, step s = .next t ∧ s.fault = none ∧ t.fault ≠ none) :=
  ⟨⟨(State.reset.setFault (some (.busError 0x118#10))).setInputs [.read 0x2FF#10 .w8], _, rfl, by decide, by decide⟩,
    ⟨State.reset.setInputs [.read 0x118#10 .w8], _, rfl, by decide, by decide +kernel⟩⟩

/-- Loads that end at the buffers' last bytes. -/
theorem witness_BufferLoadsFillTheBuffer :
    (∃ (i : Nat) (bytes : List Byte), i + bytes.length ≤ 255 ∧ i + bytes.length = 255 ∧ bytes ≠ []) ∧
    (∃ (i : Nat) (bytes : List Byte), i + bytes.length ≤ 280 ∧ i + bytes.length = 280 ∧ bytes ≠ []) :=
  ⟨⟨253, [0xDE#8, 0xAD#8], by decide⟩, ⟨278, [0xDE#8, 0xAD#8], by decide⟩⟩

/-- The host address of port address 0x320, whatever TMFC_BASE is. -/
theorem witness_HostWindowIsOneToOne : ∃ (h : Nat) (a : PortAddr), portAddressOf h = some a ∧ a = 0x320#10 := by
  refine ⟨hostAddress 0x320#10, 0x320#10, ?_, rfl⟩
  simp [portAddressOf, hostAddress]

/-- A machine with bytes and a fault mark, its reset input followed by an access. -/
theorem witness_ResetLeavesTheResetValues :
    ∃ (s : State) (rest : List Input), s.inputs = .reset :: rest ∧ rest ≠ [] ∧ s.fault ≠ none ∧ s.fb ≠ [] :=
  ⟨(base.setFault (some (.busError 0x118#10))).setInputs [.reset, .read 0x304#10 .w32], [.read 0x304#10 .w32], rfl,
    by decide, by decide, by decide +kernel⟩

/-- From reset, P1 line 1. -/
theorem witness_StepKeepsStatesLegal : ∃ s t : State, s.legal = true ∧ step s = .next t ∧ t.fb ≠ s.fb :=
  ⟨State.reset.withFetchWord 32 0x00003110, _, by decide +kernel, rfl, by decide +kernel⟩

end Sys2Proof.Tests
end

section
/-! SUPPORT. STATUS after an issued command word (10_state.md R37): how a command that goes on leaves the two check
flags, that no command reads STATUS, and the proof of the obligation on the check flags. -/

namespace Sys2Proof.Machine

/-! ## STATUS is overwritten and never read -/

/-- No command reads STATUS: each way a command can end overwrites it. -/
theorem exec_setStatus (i : Instr) (s : State) (st : Word) : exec i (s.setStatus st) = exec i s := by
  cases i <;> rfl

/-- No command word reads STATUS, legal or not. -/
theorem issueCommand_setStatus (w : Word) (s : State) (st : Word) :
    issueCommand w (s.setStatus st) = issueCommand w s := by
  unfold issueCommand
  split
  · exact exec_setStatus _ s st
  · rfl

/-! ## How a command leaves the check flags -/

/-- The commands that compare a computed checksum with a received one (R37). -/
def ComparesChecksums (i : Instr) : Prop := (∃ p v, i = .crcVerify p v) ∨ ∃ n, i = .frmDecs n

/-- The command has ended with ERR = 0 and the comparison of CRC with RCRC (R106, R160). -/
def ReportsComparison (t : State) : Prop :=
  t.status = statusWord .ok .none true (decide (t.crc = t.rcrc))

/-- The command has ended with ERR at a code's value and both check flags clear (R13, R37). -/
def EndsWithoutComparison (c : ErrorCode) (t : State) : Prop :=
  ∃ r, t.status = statusWord c r false false

theorem ReportsComparison.of_checksums {s t : State} {k r : Half}
    (h : t = ((s.setCrc k).setRcrc r).setStatus (statusWord .ok .none true (decide (k = r)))) :
    ReportsComparison t := by
  subst h
  rfl

/-- CRC.VERIFY fails its range check or reports a comparison. -/
theorem exec_crcVerify_status (p : Nat) (v : Variant) (s t : State) (h : exec (.crcVerify p v) s = .next t) :
    ReportsComparison t ∨ ∃ c, c ≠ .ok ∧ EndsWithoutComparison c t := by
  rcases execCrcVerify_next _ _ _ _ h with ⟨-, rfl⟩ | ⟨k, r, -, -, -, -, ht⟩
  · exact .inr ⟨.range, by decide, .none, rfl⟩
  · exact .inl (.of_checksums ht)

/-- FRM.DECS fails a check or reports a comparison. -/
theorem exec_frmDecs_status (n : Nat) (s t : State) (h : exec (.frmDecs n) s = .next t) :
    ReportsComparison t ∨ ∃ c, c ≠ .ok ∧ EndsWithoutComparison c t := by
  rcases execFrmDecs_next _ _ _ h with ⟨c, r, hc, rfl⟩ | ⟨l, k, r, cmd, -, -, -, -, -, -, -, -, ht⟩
  · refine .inr ⟨c, ?_, r, rfl⟩
    rcases hc with ⟨rfl, -⟩ | ⟨rfl, -⟩ <;> decide
  · exact .inl (.of_checksums ht)

/-- A command that compares no checksums ends without a comparison. -/
theorem exec_status_of_not_comparesChecksums (i : Instr) (s t : State) (hi : ¬ ComparesChecksums i)
    (h : exec i s = .next t) : ∃ c, EndsWithoutComparison c t := by
  rcases exec_next_cases i s t h with ⟨c, r, -, rfl⟩ | ⟨k, rfl⟩ | ⟨p, v, k, r, hv, -⟩ | ⟨f, len, k, -, -, -, rfl⟩ |
    ⟨n, l, k, r, cmd, hn, -⟩
  · exact ⟨c, r, rfl⟩
  · exact ⟨.ok, .none, rfl⟩
  · exact absurd (.inl ⟨p, v, hv⟩) hi
  · exact ⟨.ok, .none, rfl⟩
  · exact absurd (.inr ⟨n, hn⟩) hi

/-- A command that goes on reports a comparison if it is a comparing one that does not fail, and else ends without
one. -/
theorem exec_status_cases (i : Instr) (s t : State) (h : exec i s = .next t) :
    (ComparesChecksums i ∧ ReportsComparison t) ∨
    ∃ c, (ComparesChecksums i → c ≠ .ok) ∧ EndsWithoutComparison c t := by
  by_cases hi : ComparesChecksums i
  · have hstatus : ReportsComparison t ∨ ∃ c, c ≠ .ok ∧ EndsWithoutComparison c t := by
      rcases hi with ⟨p, v, rfl⟩ | ⟨n, rfl⟩
      · exact exec_crcVerify_status p v s t h
      · exact exec_frmDecs_status n s t h
    exact hstatus.imp (⟨hi, ·⟩) fun ⟨c, hc, ht⟩ => ⟨c, fun _ => hc, ht⟩
  · obtain ⟨c, ht⟩ := exec_status_of_not_comparesChecksums i s t hi h
    exact .inr ⟨c, fun hi' => absurd hi' hi, ht⟩

/-- The same for a command word: an illegal one ends without a comparison. -/
theorem issueCommand_status_cases (w : Word) (s t : State) (h : issueCommand w s = .next t) :
    ((∃ i, decode w = .ok i ∧ ComparesChecksums i) ∧ ReportsComparison t) ∨
    ∃ c, ((∃ i, decode w = .ok i ∧ ComparesChecksums i) → c ≠ .ok) ∧ EndsWithoutComparison c t := by
  rcases issueCommand_next w s t h with rfl | ⟨i, hi, h⟩
  · exact .inr ⟨.illegal, fun _ => by decide, .none, rfl⟩
  · simpa [hi] using exec_status_cases i s t h

/-! ## The check flags (R37) -/

theorem exists_comparesChecksums_iff (w : Word) :
    (∃ i, decode w = .ok i ∧ ComparesChecksums i) ↔
      (∃ p v, decode w = .ok (.crcVerify p v)) ∨ ∃ n, decode w = .ok (.frmDecs n) := by
  constructor
  · rintro ⟨i, hi, ⟨p, v, rfl⟩ | ⟨n, rfl⟩⟩
    · exact .inl ⟨p, v, hi⟩
    · exact .inr ⟨n, hi⟩
  · rintro (⟨p, v, hi⟩ | ⟨n, hi⟩)
    · exact ⟨_, hi, .inl ⟨p, v, rfl⟩⟩
    · exact ⟨_, hi, .inr ⟨n, rfl⟩⟩

theorem errorBits_eq_zero_iff (c : ErrorCode) : errorBits c = 0#4 ↔ c = .ok := by
  cases c <;> decide

/-- Settles O29: a word either reports the comparison of CRC with RCRC or ends with both flags clear, the latter with
ERR ≠ 0 where its command is a comparing one. -/
theorem checkFlagsComeFromAComparison : Obligations.CheckFlagsComeFromAComparison := by
  refine ⟨fun w s t h => ?_, issueCommand_setStatus, rfl, rfl⟩
  rw [← exists_comparesChecksums_iff]
  rcases issueCommand_status_cases w s t h with ⟨hw, ht⟩ | ⟨c, hw, r, ht⟩
  · unfold ReportsComparison at ht
    simp [ht, hw, errorBits]
  · simpa [ht, errorBits_eq_zero_iff, imp_not_comm] using hw

end Sys2Proof.Machine
end

section
/-! SUPPORT. Host accesses by what stands at their address (20_memory.md R52 to R56): what the port admits there, what
each kind of access does, that a read and a write off CMD repeat, and the proofs of the obligations on them. -/

namespace Sys2Proof.Machine

section
variable {a : PortAddr}

/-! ## The address map (R52) -/

/-- The width the port admits at a target (R53, R54). -/
def PortTarget.width : PortTarget → Option Width
  | .frame _ => some .w8
  | .payload _ => some .w8
  | .register _ => some .w32
  | .unmapped => none

theorem admittedWidth_eq (a : PortAddr) : admittedWidth a = (portTarget a).width := by
  rcases portTarget_cases a with ⟨-, hw, ht⟩ | ⟨-, -, hw, ht⟩ | ⟨r, -, hw, ht⟩ | ⟨hw, ht⟩ <;> rw [hw, ht] <;> rfl

theorem portTarget_frame (h : a.toNat ≤ 0x117) : portTarget a = .frame a.toNat :=
  if_pos (Nat.lt_succ_of_le h)

theorem portTarget_payload (h1 : 0x200 ≤ a.toNat) (h2 : a.toNat ≤ 0x2FE) :
    portTarget a = .payload (a.toNat - 0x200) := by
  rw [portTarget, if_neg (by simp only [Config.fbSize]; omega),
    if_pos (by simp only [pbBase, Config.pbSize]; omega)]

theorem portTarget_registerAddr (r : Register) : portTarget (registerAddr r) = .register r := by
  cases r <;> rfl

theorem registerAddr_of_portTarget {r : Register} (h : portTarget a = .register r) : registerAddr r = a := by
  rcases portTarget_cases a with ⟨-, -, ht⟩ | ⟨-, -, -, ht⟩ | ⟨q, hq, -, ht⟩ | ⟨-, ht⟩ <;> rw [ht] at h <;> cases h
  simpa using List.find?_some hq

/-- An access is not admitted, or is one of the three that R53 and R54 give an effect. -/
theorem admitted_cases (a : PortAddr) (width : Width) :
    admittedWidth a ≠ some width ∨
    (width = .w8 ∧ ∃ i, portTarget a = .frame i) ∨
    (width = .w8 ∧ ∃ i, portTarget a = .payload i) ∨
    (width = .w32 ∧ ∃ r, portTarget a = .register r) := by
  by_cases hw : admittedWidth a = some width
  · right
    rw [admittedWidth_eq] at hw
    cases hp : portTarget a with
    | frame i => rw [hp] at hw; cases hw; exact .inl ⟨rfl, i, rfl⟩
    | payload i => rw [hp] at hw; cases hw; exact .inr (.inl ⟨rfl, i, rfl⟩)
    | register r => rw [hp] at hw; cases hw; exact .inr (.inr ⟨rfl, r, rfl⟩)
    | unmapped => rw [hp] at hw; cases hw
  · exact .inl hw

theorem admittedWidth_eq_w8_iff (a : PortAddr) :
    admittedWidth a = some .w8 ↔ a.toNat ≤ 0x117 ∨ (0x200 ≤ a.toNat ∧ a.toNat ≤ 0x2FE) := by
  unfold admittedWidth
  split_ifs <;> simp <;> omega

theorem admittedWidth_eq_w32_iff (a : PortAddr) :
    admittedWidth a = some .w32 ↔ 0x300 ≤ a.toNat ∧ a.toNat ≤ 0x320 ∧ a.toNat % 4 = 0 := by
  unfold admittedWidth
  split_ifs <;> simp <;> omega

theorem admittedWidth_ne_w16 (a : PortAddr) : admittedWidth a ≠ some .w16 := by
  unfold admittedWidth
  split_ifs <;> simp

/-! ## What each access does (R53 to R55) -/

theorem hostRead_frame {i : Nat} (h : portTarget a = .frame i) (s : State) :
    hostRead a .w8 s = withFrame (s.fb.readByte i) fun v => .next (respond (.byte v) s) := by
  simp only [hostRead, h]

theorem hostRead_payload {i : Nat} (h : portTarget a = .payload i) (s : State) :
    hostRead a .w8 s = withPayload (s.pb.readByte i) fun v => .next (respond (.byte v) s) := by
  simp only [hostRead, h]

theorem hostRead_register {r : Register} (h : portTarget a = .register r) (s : State) :
    hostRead a .w32 s = .next (respond (.word (readRegister r s)) s) := by
  simp only [hostRead, h]

theorem hostWrite_frame {i : Nat} (h : portTarget a = .frame i) (v : Byte) (s : State) :
    hostWrite a (.d8 v) s = .next (respond .written (s.setFb (s.fb.write i v))) := by
  simp only [hostWrite, h]

theorem hostWrite_payload {i : Nat} (h : portTarget a = .payload i) (v : Byte) (s : State) :
    hostWrite a (.d8 v) s = .next (respond .written (s.setPb (s.pb.write i v))) := by
  simp only [hostWrite, h]

theorem hostWrite_register {r : Register} (h : portTarget a = .register r) (v : Word) (s : State) :
    hostWrite a (.d32 v) s = writeRegister r v (respond .written s) := by
  simp only [hostWrite, h]

theorem hostRead_registerAddr (r : Register) (s : State) {w : Word} (h : readRegister r s = w) :
    hostRead (registerAddr r) .w32 s = .next { s with response := some (.word w) } := by
  rw [hostRead_register (portTarget_registerAddr r), h]
  rfl

theorem hostWrite_registerAddr (r : Register) (v : Word) (s : State) :
    hostWrite (registerAddr r) (.d32 v) s = writeRegister r v { s with response := some .written } :=
  hostWrite_register (portTarget_registerAddr r) v s

/-- A field with `k` reserved bits above it, read as zero. -/
theorem setWidth_eq_zero_append (k : Nat) {n : Nat} (x : BitVec n) : x.setWidth (k + n) = 0#k ++ x := by
  rw [BitVec.setWidth_eq_append (Nat.le_add_left n k)]
  simp

theorem readRegister_ctrl (s : State) : readRegister .ctrl s = if s.asplit then 1#32 else 0#32 := by
  unfold readRegister
  cases s.asplit <;> rfl

theorem hostRead_of_not_admitted {width : Width} (h : admittedWidth a ≠ some width) (s : State) :
    hostRead a width s = raiseBusError a s := by
  rw [admittedWidth_eq] at h
  unfold hostRead
  split
  case h_4 => rfl
  all_goals next hp => exact absurd (by rw [hp]; rfl) h

theorem hostWrite_of_not_admitted {data : WriteData} (h : admittedWidth a ≠ some data.width) (s : State) :
    hostWrite a data s = raiseBusError a s := by
  rw [admittedWidth_eq] at h
  unfold hostWrite
  split
  case h_4 => rfl
  all_goals next hp => exact absurd (by rw [hp]; rfl) h

/-- A BusError as R55 and R185 state it: an error response with the address, the mark set, nothing else changed. -/
theorem raiseBusError_spec (a : PortAddr) (s : State) :
    ∃ t : State, raiseBusError a s = .next t ∧ t.response = some (.busError a) ∧ t.fault ≠ none ∧
      t = { s with response := t.response, fault := t.fault } :=
  ⟨_, raiseBusError_eq a s, rfl, Option.some_ne_none _, rfl⟩

/-! ## Accesses done twice (R56) -/

theorem raiseBusError_repeats {s t : State} (h : raiseBusError a s = .next t) : raiseBusError a t = .next t := by
  rw [raiseBusError_eq] at h ⊢
  cases h
  rfl

theorem hostRead_repeats {width : Width} {s t : State} (h : hostRead a width s = .next t) :
    hostRead a width t = .next t := by
  rcases admitted_cases a width with hw | ⟨rfl, i, hi⟩ | ⟨rfl, i, hi⟩ | ⟨rfl, r, hr⟩
  · rw [hostRead_of_not_admitted hw] at h ⊢
    exact raiseBusError_repeats h
  · rw [hostRead_frame hi, withFrame_next_iff] at h ⊢
    obtain ⟨v, hv, h⟩ := h
    cases h
    exact ⟨v, hv, rfl⟩
  · rw [hostRead_payload hi, withPayload_next_iff] at h ⊢
    obtain ⟨v, hv, h⟩ := h
    cases h
    exact ⟨v, hv, rfl⟩
  · rw [hostRead_register hr] at h ⊢
    cases h
    cases r <;> rfl

/-- A host read changes the answer and the fault mark at most. -/
theorem hostRead_keeps_state {width : Width} {s t : State} (h : hostRead a width s = .next t) :
    t = { s with response := t.response, fault := t.fault } := by
  rcases hostRead_next a width s t h with ⟨r, rfl⟩ | h
  · rfl
  · rw [raiseBusError_eq] at h
    cases h
    rfl

theorem writeRegister_repeats {r : Register} (hr : r ≠ .cmd) {v : Word} {s t : State}
    (h : writeRegister r v (respond .written s) = .next t) : writeRegister r v (respond .written t) = .next t := by
  cases r with
  | cmd => exact absurd rfl hr
  | _ => cases h; rfl

theorem hostWrite_repeats {data : WriteData} {s t : State} (ha : a ≠ 0x320#10) (h : hostWrite a data s = .next t) :
    hostWrite a data t = .next t := by
  rcases admitted_cases a data.width with hw | ⟨hw, i, hi⟩ | ⟨hw, i, hi⟩ | ⟨hw, r, hr⟩
  · rw [hostWrite_of_not_admitted hw] at h ⊢
    exact raiseBusError_repeats h
  · cases data <;> cases hw
    rw [hostWrite_frame hi] at h ⊢
    cases h
    simp [respond, State.setFb, State.setResponse, Memory.write_write_same]
  · cases data <;> cases hw
    rw [hostWrite_payload hi] at h ⊢
    cases h
    simp [respond, State.setPb, State.setResponse, Memory.write_write_same]
  · cases data <;> cases hw
    rw [hostWrite_register hr] at h ⊢
    refine writeRegister_repeats ?_ h
    rintro rfl
    exact ha (registerAddr_of_portTarget hr).symm

end

/-! ## The obligations -/

/-- Settles O44: the address reaches one buffer index, and a buffer's own laws say what a read and a write there do. -/
theorem bufferAccessesReachOneByte : Obligations.BufferAccessesReachOneByte := by
  constructor
  · intro s a v ha
    have hp := portTarget_frame ha
    refine ⟨fun h => ?_, fun h => ?_, _, hostWrite_frame hp v s, rfl, Memory.read_write_same _ _ _,
      fun j hj => Memory.read_write_other _ _ _ _ hj⟩
    · rw [hostRead_frame hp, readByte_of_read h]; rfl
    · rw [hostRead_frame hp, readByte_of_unwritten h]; rfl
  · intro s a v hlo hhi
    have hp := portTarget_payload hlo hhi
    refine ⟨fun h => ?_, fun h => ?_, _, hostWrite_payload hp v s, rfl, Memory.read_write_same _ _ _,
      fun j hj => Memory.read_write_other _ _ _ _ hj⟩
    · rw [hostRead_payload hp, readByte_of_read h]; rfl
    · rw [hostRead_payload hp, readByte_of_unwritten h]; rfl

/-- Settles O45: the access is `raiseBusError`, by what stands at its address. -/
theorem notAdmittedAccessRaisesBusError : Obligations.NotAdmittedAccessRaisesBusError := by
  refine ⟨fun s a width h => ?_, fun s a data h => ?_, fun a =>
    ⟨admittedWidth_eq_w8_iff a, admittedWidth_eq_w32_iff a, admittedWidth_ne_w16 a⟩⟩
  · rw [hostRead_of_not_admitted h]
    exact raiseBusError_spec a s
  · rw [hostWrite_of_not_admitted h]
    exact raiseBusError_spec a s

/-- A CMD write whose effect depends on how often it is done: CRC.BYTE 0x31 advances the accumulator (R104). -/
theorem hostWrite_crcByte_0x31 (s : State) :
    hostWrite 0x320#10 (.d32 (encode (.crcByte 0x31#8))) s =
      .next { s with response := some .written, crc := crcStep s.crc 0x31#8, status := 0#32 } := rfl

/-- Settles O46. Two CMD writes of CRC.BYTE 0x31 advance the accumulator twice. -/
theorem hostAccessSideEffects : Obligations.HostAccessSideEffects := by
  refine ⟨fun s t a width h => ⟨hostRead_keeps_state h, hostRead_repeats h⟩,
    fun s t a data ha h => hostWrite_repeats ha h, fun s w => hostWrite_registerAddr .cmd w s, ?_⟩
  exact ⟨State.reset, _, _, _, hostWrite_crcByte_0x31 _, hostWrite_crcByte_0x31 _,
    fun h => absurd (congrArg State.crc h) (by decide +kernel)⟩

/-- Settles O43, register by register through `registerAddr`. -/
theorem registerAccessesFollowTheirAttributes : Obligations.RegisterAccessesFollowTheirAttributes := by
  intro s v
  refine ⟨hostRead_registerAddr .ctrl s (readRegister_ctrl s), hostRead_registerAddr .status s rfl,
    hostRead_registerAddr .crc s (setWidth_eq_zero_append 16 s.crc),
    hostRead_registerAddr .flen s (setWidth_eq_zero_append 16 s.flen),
    hostRead_registerAddr .baddr s (setWidth_eq_zero_append 16 s.baddr),
    hostRead_registerAddr .rcmd s (setWidth_eq_zero_append 24 s.rcmd),
    hostRead_registerAddr .rplen s (setWidth_eq_zero_append 24 s.rplen),
    hostRead_registerAddr .rcrc s (setWidth_eq_zero_append 16 s.rcrc), hostRead_registerAddr .cmd s rfl,
    hostWrite_registerAddr .ctrl v s, hostWrite_registerAddr .baddr v s, ?_, hostWrite_registerAddr .cmd v s⟩
  simp only [List.forall_mem_cons]
  exact ⟨hostWrite_registerAddr .status v s, hostWrite_registerAddr .crc v s, hostWrite_registerAddr .flen v s,
    hostWrite_registerAddr .rcmd v s, hostWrite_registerAddr .rplen v s, hostWrite_registerAddr .rcrc v s,
    fun _ h => nomatch h⟩

end Sys2Proof.Machine
end

section
/-! SUPPORT. The encoding (30_encoding.md): the decoder's answer per opcode with a reserved field, why an illegal word
has no command (R90), what an encode command leaves in FB (R130), and the proofs of the obligations on the Block read
frame (R73), the checksum's byte order (R77) and illegal words. -/

namespace Sys2Proof.Machine

/-! ## The decoder by opcode (R80) -/

section
variable {w : Word}

theorem decode_opcode_01 (h : opcodeOf w = 0x01#8) : decode w = ifReservedZero w (wordField w 8 24) .crcInit := by
  simp only [decode, h]

theorem decode_opcode_02 (h : opcodeOf w = 0x02#8) :
    decode w = ifReservedZero w (wordField w 16 16) (.crcByte (wordField w 8 8)) := by
  simp only [decode, h]

theorem decode_opcode_03 (h : opcodeOf w = 0x03#8) :
    decode w = ifReservedZero w (wordField w 26 6)
      (.crcRange (wordField w 8 9).toNat (wordField w 17 9).toNat) := by
  simp only [decode, h]

theorem decode_opcode_04 (h : opcodeOf w = 0x04#8) :
    decode w = ifReservedZero w (wordField w 18 14)
      (.crcVerify (wordField w 8 9).toNat (variantOfBit (wordField w 17 1))) := by
  simp only [decode, h]

theorem decode_opcode_10 (h : opcodeOf w = 0x10#8) :
    decode w = ifReservedZero w (wordField w 24 8) (.frmEncs (wordField w 8 8) (wordField w 16 8)) := by
  simp only [decode, h]

theorem decode_opcode_20 (h : opcodeOf w = 0x20#8) :
    decode w = ifReservedZero w (wordField w 17 15) (.frmDecs (wordField w 8 9).toNat) := by
  simp only [decode, h]

/-! ## Illegal words (R90) -/

/-- Each of the decoder's eight assigned arms contradicts the hypothesis. -/
theorem decode_unassigned
    (h : opcodeOf w ∉ [0x01#8, 0x02#8, 0x03#8, 0x04#8, 0x10#8, 0x11#8, 0x12#8, 0x20#8]) :
    decode w = .error (.unassignedOpcode (opcodeOf w)) := by
  simp only [List.mem_cons, List.not_mem_nil, or_false, not_or] at h
  unfold decode
  split <;> simp_all

theorem issueCommand_of_decode_error {e : Illegal} (h : decode w = .error e) (s : State) :
    issueCommand w s = .next { s with status := 1#32 } := by
  rw [issueCommand, h]
  rfl

/-- A word whose opcode's format has a reserved field, and whose reserved field is not zero, is illegal. -/
theorem issueCommand_of_reserved {len : Nat} {r : BitVec len} {i : Instr} (h : decode w = ifReservedZero w r i)
    (hr : r ≠ 0#len) (s : State) : issueCommand w s = .next { s with status := 1#32 } :=
  issueCommand_of_decode_error (h.trans (if_neg hr)) s

end

/-! ## The frame write (R130) -/

/-- An encode command's frame write completes with the frame at FB's first indices and every later index as it was. -/
theorem emitFrame_spec (frame : List Byte) (len : Nat) (k : Half) (s : State) :
    ∃ t, emitFrame frame len k s = .next t ∧ t.flen = BitVec.ofNat 16 len ∧
      (∀ j, j < frame.length → t.fb.read j = frame[j]?) ∧
      ∀ j, frame.length ≤ j → t.fb.read j = s.fb.read j := by
  refine ⟨_, rfl, rfl, fun j hj => ?_, fun j hj => ?_⟩
  · exact (Memory.read_writeBytes s.fb 0 j frame).trans (if_pos (by omega))
  · exact (Memory.read_writeBytes s.fb 0 j frame).trans (if_neg (by omega))

/-! ## The obligations -/

/-- Settles O17: FRM.ENCBR's frame is five header bytes and the checksum, built without PB. -/
theorem blockReadFrameOmitsPayload : Obligations.BlockReadFrameOmitsPayload := by
  intro s d c n pb
  obtain ⟨t, ht, hlen, hin, hout⟩ :=
    emitFrame_spec (blockFrame (blockHeader d c n s)) 7 (crcOfBytes (blockHeader d c n s)) { s with pb := pb }
  exact ⟨t, ht, hlen, hin 2 (by simp), fun j hj => hout j (by simpa using hj)⟩

/-- Settles O4: the bytes of a checksum are its halves, and joining appends the low byte below the high one. -/
theorem checksumBytesReassemble : Obligations.ChecksumBytesReassemble := by
  refine ⟨fun _ => rfl, fun hi lo => ⟨rfl, ?_⟩, fun k => ?_, fun m p hi lo _ hlo hhi => ?_⟩
  · rw [joinBytes, append_toNat]
    omega
  · exact BitVec.extractLsb'_append_extractLsb'_eq_extractLsb' (by decide) |>.trans BitVec.extractLsb'_eq_self
  · exact (receivedChecksum_ok_iff m p _).2 ⟨lo, hi, hlo, hhi, rfl⟩

/-- Settles O38, by the decoder's answer at each opcode. -/
theorem illegalWordReportsIllegal : Obligations.IllegalWordReportsIllegal := by
  refine ⟨fun w s h => ?_, fun _ => rfl⟩
  rcases h with hop | ⟨hop, hr⟩ | ⟨hop, hr⟩ | ⟨hop, hr⟩ | ⟨hop, hr⟩ | ⟨hop, hr⟩ | ⟨hop, hr⟩
  · exact issueCommand_of_decode_error (decode_unassigned hop) s
  · exact issueCommand_of_reserved (decode_opcode_01 hop) hr s
  · exact issueCommand_of_reserved (decode_opcode_02 hop) hr s
  · exact issueCommand_of_reserved (decode_opcode_03 hop) hr s
  · exact issueCommand_of_reserved (decode_opcode_04 hop) hr s
  · exact issueCommand_of_reserved (decode_opcode_10 hop) hr s
  · exact issueCommand_of_reserved (decode_opcode_20 hop) hr s

end Sys2Proof.Machine
end

section
/-! SUPPORT. The checksum function (40_crc.md R101, R102): its rounds as an iterate, what a range's reads depend on, and
the proofs of the obligations on one byte update and on a range. -/

namespace Sys2Proof.Machine

/-! ## The rounds of a byte update (R101) -/

theorem crcRoundsFrom_eq_iterate (k : Nat) (c : Half) : crcRoundsFrom k c = crcRound^[k] c := by
  induction k generalizing c with
  | zero => rfl
  | succ k ih => exact ih (crcRound c)

/-! ## The bytes a range reads (R102) -/

/-- A run of reads depends on no index outside the run. -/
theorem Memory.readBytes_congr {m m' : Memory} {i count : Nat}
    (h : ∀ j, i ≤ j → j < i + count → m.read j = m'.read j) : m.readBytes i count = m'.readBytes i count := by
  induction count generalizing i with
  | zero => rfl
  | succ n ih =>
    have hhead : m.read i = m'.read i := h i le_rfl (by omega)
    have htail : m.readBytes (i + 1) n = m'.readBytes (i + 1) n := ih fun j hlo hhi => h j (by omega) (by omega)
    simp only [Memory.readBytes, hhead, htail]

theorem rangeCount_of_empty {s : Nat} {e : Int} (h : e < s) : rangeCount s e = 0 :=
  Int.toNat_eq_zero.2 (by omega)

theorem rangeCount_eq_of_cast {s n : Nat} {e : Int} (h : (n : Int) = e + 1 - s) : rangeCount s e = n :=
  (congrArg Int.toNat h).symm

/-- The indices a count covers are those of the inclusive range. -/
theorem le_of_lt_add_rangeCount {s j : Nat} {e : Int} (hlo : s ≤ j) (hhi : j < s + rangeCount s e) : (j : Int) ≤ e := by
  unfold rangeCount at hhi
  omega

theorem crcOfRange_of_empty (m : Memory) {s : Nat} {e : Int} (h : e < s) : crcOfRange m s e = .ok Config.crcInit := by
  refine crcOfRange_ok m s e [] ?_
  rw [rangeCount_of_empty h]
  rfl

theorem crcOfRange_of_holds {m : Memory} {s : Nat} {e : Int} {bytes : List Byte}
    (hlen : (bytes.length : Int) = e + 1 - s) (hm : m.holds s bytes) : crcOfRange m s e = .ok (crcOfBytes bytes) :=
  crcOfRange_ok m s e bytes ((Memory.readBytes_ok_iff m s _ bytes).2 ⟨(rangeCount_eq_of_cast hlen).symm, hm⟩)

/-- A range's checksum depends on no index outside the range, written or not. -/
theorem crcOfRange_congr {m m' : Memory} {s : Nat} {e : Int}
    (h : ∀ j : Nat, s ≤ j → (j : Int) ≤ e → m.read j = m'.read j) : crcOfRange m s e = crcOfRange m' s e := by
  have hreads : m.readBytes s (rangeCount s e) = m'.readBytes s (rangeCount s e) :=
    Memory.readBytes_congr fun j hlo hhi => h j hlo (le_of_lt_add_rangeCount hlo hhi)
  rw [crcOfRange, hreads, crcOfRange]

/-- Bytes 0x00, 0x31 in the two orders. -/
theorem crcOfBytes_order_matters : crcOfBytes [0x00#8, 0x31#8] ≠ crcOfBytes [0x31#8, 0x00#8] := by decide +kernel

/-! ## The obligations -/

/-- Settles O3: each clause is a law of `crcOfRange`, and the bytes 0x00 and 0x31 tell the orders apart. -/
theorem crcOfRangeFoldsAscendingBytes : Obligations.CrcOfRangeFoldsAscendingBytes :=
  ⟨fun m _ _ h => crcOfRange_of_empty m h, fun _ _ _ _ hlen hm => crcOfRange_of_holds hlen hm,
    fun _ _ _ _ h => crcOfRange_congr h, 0x00#8, 0x31#8, crcOfBytes_order_matters⟩

/-- Settles O1: a round is R101's by definition, and a byte update iterates it. -/
theorem crcStepIsEightTappedShifts : Obligations.CrcStepIsEightTappedShifts :=
  ⟨fun _ => rfl, fun c b => crcRoundsFrom_eq_iterate 8 (c ^^^ b.setWidth 16)⟩

end Sys2Proof.Machine
end

section
/-! SUPPORT. The block-address split (41_frame_encode.md R131): the quotient by a power of two is a run of bits of the
address, and the proof of the obligation on the two modes. -/

namespace Sys2Proof.Machine

/-! ## The split's high byte in each mode (R131) -/

theorem ofNat_div_two_pow {w : Nat} (a : BitVec w) (k n : Nat) :
    BitVec.ofNat n (a.toNat / 2 ^ k) = a.extractLsb' k n := by
  rw [← Nat.shiftRight_eq_div_pow, BitVec.extractLsb']

theorem addressHigh_conventional (a : Half) : addressHigh a true = a.extractLsb' 8 8 :=
  ofNat_div_two_pow a 8 8

/-- BADDR has only seven bits from bit 9 up, so the byte's top bit is zero. -/
theorem addressHigh_literal (a : Half) : addressHigh a false = (a.extractLsb' 9 7).setWidth 8 := by
  have hbits : addressHigh a false = a.extractLsb' 9 8 := ofNat_div_two_pow a 9 8
  rw [hbits]
  ext i hi
  simp only [BitVec.getElem_extractLsb', BitVec.getElem_setWidth, BitVec.getLsbD_extractLsb']
  by_cases h7 : i < 7
  · simp [h7]
  · simp [h7, BitVec.getLsbD_of_ge a (9 + i) (by omega)]

theorem addressHigh_literal_toNat_le (a : Half) : (addressHigh a false).toNat ≤ 127 := by
  rw [addressHigh_literal, BitVec.toNat_setWidth_of_le (by decide)]
  exact Nat.le_of_lt_succ (a.extractLsb' 9 7).isLt

/-! ## The obligation -/

/-- Settles O5: the quotients are the definition's own, and as bits they are `addressHigh_literal` and
`addressHigh_conventional`. -/
theorem blockAddressSplitFollowsItsMode : Obligations.BlockAddressSplitFollowsItsMode := fun a =>
  ⟨rfl, addressHigh_literal a, addressHigh_literal_toNat_le a, rfl, addressHigh_conventional a, rfl⟩

end Sys2Proof.Machine
end

section
/-! SUPPORT. The frame decoder (42_frame_decode.md R160 to R166): that the received count matters only up to the implied
length, that the decoder reads no byte beyond it, and the proofs of the obligations on trailing bytes and on index
operands outside FB. -/

namespace Sys2Proof.Machine

/-! ## The received count (R162) -/

/-- What R162 still asks of a frame whose implied length is inside the received count: its two markers. -/
def checkMarkers (l : Byte) (s : State) : Outcome :=
  withFrame (s.fb.readByte 0) fun start =>
    if start ≠ Config.startMarker then failCommand .malformed .start s
    else withFrame (s.fb.readByte (impliedLength l - 1)) fun last =>
      if last ≠ Config.endMarker then failCommand .malformed .endMarker s
      else acceptFrame (impliedLength l) l s

theorem impliedLength_le_fbSize (l : Byte) : impliedLength l ≤ Config.fbSize := by
  have hl : l.toNat < 256 := l.isLt
  change l.toNat + 6 ≤ 280
  omega

/-- From the implied length up, the received count has no part in the outcome. -/
theorem execFrmDecs_eq_checkMarkers {n : Nat} {l : Byte} {s : State} (hl : s.fb.read 2 = some l)
    (hF : impliedLength l ≤ n) (hn : n ≤ Config.fbSize) : execFrmDecs n s = checkMarkers l s := by
  have hshort : ¬ n < 6 := Nat.not_lt.2 ((Nat.le_add_left 6 l.toNat).trans hF)
  simp only [execFrmDecs, checkFrame, checkMarkers, readByte_of_read hl, withFrame_ok, if_neg hn.not_gt, if_neg hshort,
    if_neg (impliedLength_le_fbSize l).not_gt, if_neg hF.not_gt]

/-! ## The bytes the decoder reads (R166) -/

/-- An outcome with another frame buffer in its next state, if it has one. -/
def replaceFb (m : Memory) : Outcome → Outcome
  | .next t => .next (t.setFb m)
  | .fault r => .fault r
  | .refused r => .refused r

theorem replaceFb_withFrame {α : Type} (m : Memory) (r : Except Nat α) (k : α → Outcome) :
    replaceFb m (withFrame r k) = withFrame r fun v => replaceFb m (k v) := by
  cases r <;> rfl

theorem failCommand_setFb (c : ErrorCode) (r : Reason) (s : State) (m : Memory) :
    failCommand c r (s.setFb m) = replaceFb m (failCommand c r s) := rfl

theorem Memory.readByte_congr {m m' : Memory} {i : Nat} (h : m.read i = m'.read i) : m.readByte i = m'.readByte i := by
  rw [readByte, h, readByte]

theorem receivedChecksum_congr {m m' : Memory} {p : Nat} (hlo : m.read (p - 1) = m'.read (p - 1))
    (hhi : m.read p = m'.read p) : receivedChecksum m p = receivedChecksum m' p := by
  rw [receivedChecksum, Memory.readByte_congr hlo, Memory.readByte_congr hhi, receivedChecksum]

section
variable {l : Byte} {s : State} {m : Memory} (h : ∀ j, j < impliedLength l → m.read j = s.fb.read j)
include h

/-- The results of an accepted frame do not depend on FB from the implied length up. -/
theorem acceptFrame_setFb :
    acceptFrame (impliedLength l) l (s.setFb m) = replaceFb m (acceptFrame (impliedLength l) l s) := by
  have hlen : 6 ≤ impliedLength l := Nat.le_add_left 6 l.toNat
  have hcrc : crcOfRange m 1 ((impliedLength l : Int) - 4) = crcOfRange s.fb 1 ((impliedLength l : Int) - 4) :=
    crcOfRange_congr fun j _ hj => h j (by omega)
  have hck : receivedChecksum m (impliedLength l - 2) = receivedChecksum s.fb (impliedLength l - 2) :=
    receivedChecksum_congr (h _ (by omega)) (h _ (by omega))
  have hcmd : m.readByte 1 = s.fb.readByte 1 := Memory.readByte_congr (h 1 (by omega))
  simp only [acceptFrame, replaceFb_withFrame, State.setFb_fb, hcrc, hck, hcmd]
  rfl

/-- The checks of a frame inside the received count do not depend on FB from the implied length up. -/
theorem checkMarkers_setFb : checkMarkers l (s.setFb m) = replaceFb m (checkMarkers l s) := by
  have hlen : 6 ≤ impliedLength l := Nat.le_add_left 6 l.toNat
  have hstart : m.readByte 0 = s.fb.readByte 0 := Memory.readByte_congr (h 0 (by omega))
  have hend : m.readByte (impliedLength l - 1) = s.fb.readByte (impliedLength l - 1) :=
    Memory.readByte_congr (h _ (by omega))
  simp only [checkMarkers, replaceFb_withFrame, apply_ite (replaceFb m), State.setFb_fb, hstart, hend,
    failCommand_setFb, acceptFrame_setFb h]

/-- FRM.DECS of any count from the implied length up, whatever FB holds beyond it, ends as FRM.DECS of that length. -/
theorem execFrmDecs_setFb {n : Nat} (hl : s.fb.read 2 = some l) (hF : impliedLength l ≤ n) (hn : n ≤ Config.fbSize) :
    execFrmDecs n (s.setFb m) = replaceFb m (execFrmDecs (impliedLength l) s) := by
  have hl' : (s.setFb m).fb.read 2 = some l := (h 2 (by unfold impliedLength; omega)).trans hl
  calc execFrmDecs n (s.setFb m)
      = checkMarkers l (s.setFb m) := execFrmDecs_eq_checkMarkers hl' hF hn
    _ = replaceFb m (checkMarkers l s) := checkMarkers_setFb h
    _ = replaceFb m (execFrmDecs (impliedLength l) s) :=
      congrArg _ (execFrmDecs_eq_checkMarkers hl le_rfl (impliedLength_le_fbSize l)).symm

end

/-- An accepted frame's FLEN is its implied length. -/
theorem execFrmDecs_flen {n : Nat} {l : Byte} {s t : State} (hl : s.fb.read 2 = some l)
    (ht : execFrmDecs n s = .next t) (herr : statusErr t.status = 0#4) :
    t.flen = BitVec.ofNat 16 (impliedLength l) := by
  rcases execFrmDecs_next n s t ht with ⟨c, r, hc, rfl⟩ | ⟨l', k, r, cmd, -, -, -, hl', -, -, -, -, rfl⟩
  · have hok : c = .ok := by simpa [errorBits_eq_zero_iff] using herr
    simp [hok] at hc
  · obtain rfl : l = l' := Option.some.inj (hl.symm.trans hl')
    rfl

/-! ## Index operands outside FB (R105, R106, R161) -/

theorem failCommand_range (s : State) : failCommand .range .none s = .next { s with status := 2#32 } := rfl

theorem execCrcRange_of_last_ge {first last : Nat} (hle : first ≤ last) (hlast : Config.fbSize ≤ last) (s : State) :
    execCrcRange first last s = failCommand .range .none s := by
  rw [execCrcRange, if_neg hle.not_gt, if_pos hlast]

theorem execCrcVerify_of_position_outside {p : Nat} (hp : p = 0 ∨ Config.fbSize ≤ p) (v : Variant) (s : State) :
    execCrcVerify p v s = failCommand .range .none s :=
  if_pos hp

theorem execFrmDecs_of_count_gt {n : Nat} (hn : Config.fbSize < n) (s : State) :
    execFrmDecs n s = failCommand .range .none s :=
  if_pos hn

/-! ## The obligations -/

/-- Settles O23: `execFrmDecs_setFb` gives the outcome of FRM.DECS F with the other buffer put in, and
`execFrmDecs_flen` the length it reports. -/
theorem frmDecsIgnoresBytesBeyondFrame : Obligations.FrmDecsIgnoresBytesBeyondFrame := by
  intro s m n l hl hF hn hm
  have hout : exec (.frmDecs n) { s with fb := m } = replaceFb m (exec (.frmDecs (l.toNat + 6)) s) :=
    execFrmDecs_setFb hm hl hF.le hn
  refine ⟨fun t ht => ⟨?_, execFrmDecs_flen hl ht⟩, fun r hr => ?_⟩
  · rw [hout, ht]
    rfl
  · rw [hout, hr]
    rfl

/-- Settles O12: each command's range check fails, and the failure writes STATUS = 2 alone. -/
theorem operandOutsideFrameBufferGivesRange : Obligations.OperandOutsideFrameBufferGivesRange :=
  ⟨fun s _ _ hle hlast => (execCrcRange_of_last_ge hle hlast s).trans (failCommand_range s),
    fun s _ v hp => (execCrcVerify_of_position_outside hp v s).trans (failCommand_range s),
    fun s _ hn => (execFrmDecs_of_count_gt hn s).trans (failCommand_range s)⟩

end Sys2Proof.Machine
end

section
/-! SUPPORT. Failures are precise (60_exceptions.md R184): a command that goes on has written STATUS alone or ended with
ERR = 0, a BusError changes the model's own answer and mark alone, and the proof of the obligation on both. -/

namespace Sys2Proof.Machine

/-- A state that differs from another in STATUS alone, at most, differs from it by its own STATUS. -/
theorem eq_with_status_of_eq_setStatus {s t : State} {st : Word} (h : t = s.setStatus st) :
    t = { s with status := t.status } := by
  subst h
  rfl

theorem statusErr_eq_zero_of_eq_setStatus_ok {s t : State} {d m : Bool}
    (h : t = s.setStatus (statusWord .ok .none d m)) : statusErr t.status = 0#4 := by
  subst h
  exact statusErr_statusWord .ok .none d m

/-- Only the first of a command's ways to go on leaves ERR not 0, and it is the one that writes STATUS alone. -/
theorem exec_failure_writes_status_only {i : Instr} {s t : State} (h : exec i s = .next t)
    (herr : statusErr t.status ≠ 0#4) : t = { s with status := t.status } := by
  rcases exec_next_cases i s t h with ⟨c, r, -, ht⟩ | ⟨k, ht⟩ | ⟨p, v, k, r, -, ht⟩ | ⟨frame, len, k, -, -, -, ht⟩ |
    ⟨n, l, k, r, cmd, -, ht⟩
  · exact eq_with_status_of_eq_setStatus ht
  all_goals exact absurd (statusErr_eq_zero_of_eq_setStatus_ok ht) herr

theorem issueCommand_failure_writes_status_only {w : Word} {s t : State} (h : issueCommand w s = .next t)
    (herr : statusErr t.status ≠ 0#4) : t = { s with status := t.status } := by
  rcases issueCommand_next w s t h with ht | ⟨i, -, hi⟩
  · exact eq_with_status_of_eq_setStatus ht
  · exact exec_failure_writes_status_only hi herr

theorem raiseBusError_keeps_state {a : PortAddr} {s t : State} (h : raiseBusError a s = .next t) :
    t = { s with response := t.response, fault := t.fault } := by
  rw [raiseBusError_eq] at h
  cases h
  rfl

/-- Settles O25: a failing command writes STATUS alone, no read changes TMFC's fields, and a write that is not admitted
is a BusError. -/
theorem failuresArePrecise : Obligations.FailuresArePrecise := by
  refine ⟨fun _ _ _ => exec_failure_writes_status_only, fun _ _ _ => issueCommand_failure_writes_status_only,
    fun _ _ _ _ _ => hostRead_keeps_state, fun a data s t hw h => ?_⟩
  rw [hostWrite_of_not_admitted hw] at h
  exact raiseBusError_keeps_state h

end Sys2Proof.Machine
end

section
/-! SUPPORT. The command word both ways (30_encoding.md R79 to R88): a command's word as a number, a word joined again
from its fields, the fixed bits of an opcode row, and the proofs of the obligations on the decoder, the encoder and the
opcode map. -/

namespace Sys2Proof.Machine

/-! ## A command's word as a number (R81 to R87) -/

theorem encode_crcInit_toNat : (encode .crcInit).toNat = 0x01 := rfl

theorem encode_crcByte_toNat (a : Byte) : (encode (.crcByte a)).toNat = a.toNat * 2 ^ 8 + 0x02 := by
  refine (append_toNat (0#16 ++ a) 0x02#8).trans ?_
  rw [append_toNat]
  simp

theorem encode_crcRange_toNat (s e : Nat) :
    (encode (.crcRange s e)).toNat = (e % 512 * 2 ^ 9 + s % 512) * 2 ^ 8 + 0x03 := by
  refine (append_toNat (0#6 ++ BitVec.ofNat 9 e ++ BitVec.ofNat 9 s) 0x03#8).trans ?_
  rw [append_toNat, append_toNat]
  simp

theorem encode_crcVerify_toNat (p : Nat) (v : Variant) :
    (encode (.crcVerify p v)).toNat = ((bitOfVariant v).toNat * 2 ^ 9 + p % 512) * 2 ^ 8 + 0x04 := by
  refine (append_toNat (0#14 ++ bitOfVariant v ++ BitVec.ofNat 9 p) 0x04#8).trans ?_
  rw [append_toNat, append_toNat]
  simp

theorem encode_frmEncs_toNat (c l : Byte) :
    (encode (.frmEncs c l)).toNat = (l.toNat * 2 ^ 8 + c.toNat) * 2 ^ 8 + 0x10 := by
  refine (append_toNat (0#8 ++ l ++ c) 0x10#8).trans ?_
  rw [append_toNat, append_toNat]
  simp

theorem encode_frmEncbw_toNat (d c n : Byte) :
    (encode (.frmEncbw d c n)).toNat = ((d.toNat * 2 ^ 8 + n.toNat) * 2 ^ 8 + c.toNat) * 2 ^ 8 + 0x11 := by
  refine (append_toNat (d ++ n ++ c) 0x11#8).trans ?_
  rw [append_toNat, append_toNat]
  rfl

theorem encode_frmEncbr_toNat (d c n : Byte) :
    (encode (.frmEncbr d c n)).toNat = ((d.toNat * 2 ^ 8 + n.toNat) * 2 ^ 8 + c.toNat) * 2 ^ 8 + 0x12 := by
  refine (append_toNat (d ++ n ++ c) 0x12#8).trans ?_
  rw [append_toNat, append_toNat]
  rfl

theorem encode_frmDecs_toNat (n : Nat) : (encode (.frmDecs n)).toNat = n % 512 * 2 ^ 8 + 0x20 := by
  refine (append_toNat (0#15 ++ BitVec.ofNat 9 n) 0x20#8).trans ?_
  rw [append_toNat]
  simp

/-! ## The decoder by opcode, where the format has no reserved field (R86) -/

theorem decode_opcode_11 {w : Word} (h : opcodeOf w = 0x11#8) :
    decode w = .ok (.frmEncbw (wordField w 24 8) (wordField w 8 8) (wordField w 16 8)) := by
  simp only [decode, h]

theorem decode_opcode_12 {w : Word} (h : opcodeOf w = 0x12#8) :
    decode w = .ok (.frmEncbr (wordField w 24 8) (wordField w 8 8) (wordField w 16 8)) := by
  simp only [decode, h]

/-! ## Decode after encode -/

theorem wordField_eq_of_toNat {w : Word} {lo len : Nat} {x : BitVec len} (h : w.toNat / 2 ^ lo % 2 ^ len = x.toNat) :
    wordField w lo len = x :=
  BitVec.eq_of_toNat_eq ((wordField_toNat w lo len).trans h)

theorem opcodeOf_eq_of_toNat {w : Word} {op : Byte} (h : w.toNat % 256 = op.toNat) : opcodeOf w = op :=
  BitVec.eq_of_toNat_eq ((opcodeOf_toNat w).trans h)

theorem ifReservedZero_of_eq_zero {w : Word} {len : Nat} {r : BitVec len} (h : r = 0#len) (i : Instr) :
    ifReservedZero w r i = .ok i :=
  if_pos h

theorem mod_of_fitsNineBits {k : Nat} (h : fitsNineBits k = true) : k % 512 = k :=
  Nat.mod_eq_of_lt (of_decide_eq_true h)

theorem variantOfBit_bitOfVariant (v : Variant) : variantOfBit (bitOfVariant v) = v := by
  cases v <;> rfl

theorem decode_encode_crcByte (a : Byte) : decode (encode (.crcByte a)) = .ok (.crcByte a) := by
  have hw := encode_crcByte_toNat a
  have ha := a.isLt
  rw [decode_opcode_02 (opcodeOf_eq_of_toNat (by simp; omega)),
    ifReservedZero_of_eq_zero (wordField_eq_of_toNat (by simp; omega)),
    wordField_eq_of_toNat (x := a) (by omega)]

theorem decode_encode_crcRange (s e : Nat) (hs : fitsNineBits s = true) (he : fitsNineBits e = true) :
    decode (encode (.crcRange s e)) = .ok (.crcRange s e) := by
  have hw := encode_crcRange_toNat s e
  rw [mod_of_fitsNineBits hs, mod_of_fitsNineBits he] at hw
  have hs' : s < 512 := of_decide_eq_true hs
  have he' : e < 512 := of_decide_eq_true he
  rw [decode_opcode_03 (opcodeOf_eq_of_toNat (by simp; omega)),
    ifReservedZero_of_eq_zero (wordField_eq_of_toNat (by simp; omega)), wordField_toNat, wordField_toNat]
  congr 2 <;> omega

theorem decode_encode_crcVerify (p : Nat) (v : Variant) (hp : fitsNineBits p = true) :
    decode (encode (.crcVerify p v)) = .ok (.crcVerify p v) := by
  have hw := encode_crcVerify_toNat p v
  rw [mod_of_fitsNineBits hp] at hw
  have hp' : p < 512 := of_decide_eq_true hp
  have hv := (bitOfVariant v).isLt
  have hfield : wordField (encode (.crcVerify p v)) 17 1 = bitOfVariant v := wordField_eq_of_toNat (by omega)
  rw [decode_opcode_04 (opcodeOf_eq_of_toNat (by simp; omega)),
    ifReservedZero_of_eq_zero (wordField_eq_of_toNat (by simp; omega)), hfield, variantOfBit_bitOfVariant,
    wordField_toNat]
  congr 2
  omega

theorem decode_encode_frmEncs (c l : Byte) : decode (encode (.frmEncs c l)) = .ok (.frmEncs c l) := by
  have hw := encode_frmEncs_toNat c l
  have hc := c.isLt
  have hl := l.isLt
  rw [decode_opcode_10 (opcodeOf_eq_of_toNat (by simp; omega)),
    ifReservedZero_of_eq_zero (wordField_eq_of_toNat (by simp; omega)),
    wordField_eq_of_toNat (x := c) (by omega), wordField_eq_of_toNat (x := l) (by omega)]

theorem decode_encode_frmEncbw (d c n : Byte) : decode (encode (.frmEncbw d c n)) = .ok (.frmEncbw d c n) := by
  have hw := encode_frmEncbw_toNat d c n
  have hc := c.isLt
  have hn := n.isLt
  have hd := d.isLt
  rw [decode_opcode_11 (opcodeOf_eq_of_toNat (by simp; omega)), wordField_eq_of_toNat (x := d) (by omega),
    wordField_eq_of_toNat (x := c) (by omega), wordField_eq_of_toNat (x := n) (by omega)]

theorem decode_encode_frmEncbr (d c n : Byte) : decode (encode (.frmEncbr d c n)) = .ok (.frmEncbr d c n) := by
  have hw := encode_frmEncbr_toNat d c n
  have hc := c.isLt
  have hn := n.isLt
  have hd := d.isLt
  rw [decode_opcode_12 (opcodeOf_eq_of_toNat (by simp; omega)), wordField_eq_of_toNat (x := d) (by omega),
    wordField_eq_of_toNat (x := c) (by omega), wordField_eq_of_toNat (x := n) (by omega)]

theorem decode_encode_frmDecs (n : Nat) (hn : fitsNineBits n = true) :
    decode (encode (.frmDecs n)) = .ok (.frmDecs n) := by
  have hw := encode_frmDecs_toNat n
  rw [mod_of_fitsNineBits hn] at hw
  have hn' : n < 512 := of_decide_eq_true hn
  rw [decode_opcode_20 (opcodeOf_eq_of_toNat (by simp; omega)),
    ifReservedZero_of_eq_zero (wordField_eq_of_toNat (by simp; omega)), wordField_toNat]
  congr 2
  omega

/-- Settles O34, command by command: the word as a number gives back each field. -/
theorem decodeOfEncodeIsTheCommand : Obligations.DecodeOfEncodeIsTheCommand := by
  intro i hwf
  cases i with
  | crcInit => rfl
  | crcByte a => exact decode_encode_crcByte a
  | crcRange s e =>
    obtain ⟨hs, he⟩ := Bool.and_eq_true_iff.1 hwf
    exact decode_encode_crcRange s e hs he
  | crcVerify p v => exact decode_encode_crcVerify p v hwf
  | frmEncs c l => exact decode_encode_frmEncs c l
  | frmEncbw d c n => exact decode_encode_frmEncbw d c n
  | frmEncbr d c n => exact decode_encode_frmEncbr d c n
  | frmDecs n => exact decode_encode_frmDecs n hwf

/-- Settles O37: the decoder runs on eight fixed words. -/
theorem sampleWordsDecode : Obligations.SampleWordsDecode := by
  unfold Obligations.SampleWordsDecode
  decide

/-! ## Encode after decode -/

/-- A word that decodes has one of the eight opcodes, and its format's reserved field is zero (R80, R90). -/
theorem decode_ok_cases {w : Word} {i : Instr} (h : decode w = .ok i) :
    (opcodeOf w = 0x01#8 ∧ wordField w 8 24 = 0#24 ∧ i = .crcInit) ∨
    (opcodeOf w = 0x02#8 ∧ wordField w 16 16 = 0#16 ∧ i = .crcByte (wordField w 8 8)) ∨
    (opcodeOf w = 0x03#8 ∧ wordField w 26 6 = 0#6 ∧
      i = .crcRange (wordField w 8 9).toNat (wordField w 17 9).toNat) ∨
    (opcodeOf w = 0x04#8 ∧ wordField w 18 14 = 0#14 ∧
      i = .crcVerify (wordField w 8 9).toNat (variantOfBit (wordField w 17 1))) ∨
    (opcodeOf w = 0x10#8 ∧ wordField w 24 8 = 0#8 ∧ i = .frmEncs (wordField w 8 8) (wordField w 16 8)) ∨
    (opcodeOf w = 0x11#8 ∧ i = .frmEncbw (wordField w 24 8) (wordField w 8 8) (wordField w 16 8)) ∨
    (opcodeOf w = 0x12#8 ∧ i = .frmEncbr (wordField w 24 8) (wordField w 8 8) (wordField w 16 8)) ∨
    (opcodeOf w = 0x20#8 ∧ wordField w 17 15 = 0#15 ∧ i = .frmDecs (wordField w 8 9).toNat) := by
  unfold decode at h
  split at h <;> simp_all [ifReservedZero_ok_iff]

theorem toNat_mod_of_opcodeOf {w : Word} {op : Byte} (h : opcodeOf w = op) : w.toNat % 256 = op.toNat :=
  (opcodeOf_toNat w).symm.trans (congrArg BitVec.toNat h)

theorem toNat_field_eq_zero {w : Word} {lo len : Nat} (h : wordField w lo len = 0#len) :
    w.toNat / 2 ^ lo % 2 ^ len = 0 := by
  rw [← wordField_toNat, h, BitVec.toNat_ofNat, Nat.zero_mod]

theorem bitOfVariant_variantOfBit (b : BitVec 1) : bitOfVariant (variantOfBit b) = b := by
  revert b
  decide

theorem fitsNineBits_toNat (x : BitVec 9) : fitsNineBits x.toNat = true :=
  decide_eq_true x.isLt

/-- Settles O35: the opcode, the operands and the reserved field, each a quotient and remainder of the word, make it up
again. -/
theorem encodeOfDecodeIsTheWord : Obligations.EncodeOfDecodeIsTheWord := by
  intro w i h
  have hw := w.isLt
  rcases decode_ok_cases h with ⟨hop, hr, rfl⟩ | ⟨hop, hr, rfl⟩ | ⟨hop, hr, rfl⟩ | ⟨hop, hr, rfl⟩ | ⟨hop, hr, rfl⟩ |
    ⟨hop, rfl⟩ | ⟨hop, rfl⟩ | ⟨hop, hr, rfl⟩
  · have hop : w.toNat % 256 = 0x01 := toNat_mod_of_opcodeOf hop
    have hr := toNat_field_eq_zero hr
    refine ⟨rfl, BitVec.eq_of_toNat_eq ?_⟩
    rw [encode_crcInit_toNat]
    omega
  · have hop : w.toNat % 256 = 0x02 := toNat_mod_of_opcodeOf hop
    have hr := toNat_field_eq_zero hr
    refine ⟨rfl, BitVec.eq_of_toNat_eq ?_⟩
    rw [encode_crcByte_toNat, wordField_toNat]
    omega
  · have hop : w.toNat % 256 = 0x03 := toNat_mod_of_opcodeOf hop
    have hr := toNat_field_eq_zero hr
    refine ⟨Bool.and_eq_true_iff.2 ⟨fitsNineBits_toNat _, fitsNineBits_toNat _⟩, BitVec.eq_of_toNat_eq ?_⟩
    rw [encode_crcRange_toNat, wordField_toNat, wordField_toNat]
    omega
  · have hop : w.toNat % 256 = 0x04 := toNat_mod_of_opcodeOf hop
    have hr := toNat_field_eq_zero hr
    refine ⟨fitsNineBits_toNat _, BitVec.eq_of_toNat_eq ?_⟩
    rw [encode_crcVerify_toNat, bitOfVariant_variantOfBit, wordField_toNat, wordField_toNat]
    omega
  · have hop : w.toNat % 256 = 0x10 := toNat_mod_of_opcodeOf hop
    have hr := toNat_field_eq_zero hr
    refine ⟨rfl, BitVec.eq_of_toNat_eq ?_⟩
    rw [encode_frmEncs_toNat, wordField_toNat, wordField_toNat]
    omega
  · have hop : w.toNat % 256 = 0x11 := toNat_mod_of_opcodeOf hop
    refine ⟨rfl, BitVec.eq_of_toNat_eq ?_⟩
    rw [encode_frmEncbw_toNat, wordField_toNat, wordField_toNat, wordField_toNat]
    omega
  · have hop : w.toNat % 256 = 0x12 := toNat_mod_of_opcodeOf hop
    refine ⟨rfl, BitVec.eq_of_toNat_eq ?_⟩
    rw [encode_frmEncbr_toNat, wordField_toNat, wordField_toNat, wordField_toNat]
    omega
  · have hop : w.toNat % 256 = 0x20 := toNat_mod_of_opcodeOf hop
    have hr := toNat_field_eq_zero hr
    refine ⟨fitsNineBits_toNat _, BitVec.eq_of_toNat_eq ?_⟩
    rw [encode_frmDecs_toNat, wordField_toNat]
    omega

/-! ## The opcode map (R88) -/

/-- The command's word is selected by the command's own row. -/
theorem encode_selects_own_row (i : Instr) :
    ∃ r ∈ opcodeMap, r.mnemonic = mnemonicOf i ∧ r.selects (encode i) = true := by
  cases i with
  | crcInit => exact Laws.OpcodeRow.crcInit
  | crcByte a => exact Laws.OpcodeRow.crcByte a
  | crcRange s e => exact Laws.OpcodeRow.crcRange s e
  | crcVerify p v => exact Laws.OpcodeRow.crcVerify p v
  | frmEncs c l => exact Laws.OpcodeRow.frmEncs c l
  | frmEncbw d c n => exact Laws.OpcodeRow.frmEncbw d c n
  | frmEncbr d c n => exact Laws.OpcodeRow.frmEncbr d c n
  | frmDecs n => exact Laws.OpcodeRow.frmDecs n

section
variable {w : Word} {r : OpcodeRow}

/-- A field that a row's mask covers has the row's fixed bits in every word the row selects. -/
theorem wordField_of_selects (h : r.selects w = true) {lo len : Nat}
    (hmask : wordField r.mask lo len = BitVec.allOnes len) : wordField w lo len = wordField r.pattern lo len := by
  have hand : w &&& r.mask = r.pattern := eq_of_beq h
  rw [← hand, wordField, wordField, BitVec.extractLsb'_and, ← wordField, ← wordField, hmask, BitVec.and_allOnes]

/-- Every row fixes the opcode. -/
theorem opcodeOf_of_selects (hr : r ∈ opcodeMap) (h : r.selects w = true) : opcodeOf w = opcodeOf r.pattern := by
  have hmask : ∀ q ∈ opcodeMap, wordField q.mask 0 8 = BitVec.allOnes 8 := by decide
  exact wordField_of_selects h (hmask r hr)

/-- The rows' opcodes are all different, so the rows that select one word are at most one. -/
theorem selecting_rows_length_le_one (w : Word) : (opcodeMap.filter fun r => r.selects w).length ≤ 1 := by
  have hdiff : opcodeMap.Pairwise fun q r => opcodeOf q.pattern ≠ opcodeOf r.pattern := by decide
  have hpair := hdiff.sublist (List.filter_sublist (p := fun r => r.selects w))
  have hsel : ∀ r ∈ opcodeMap.filter fun r => r.selects w, opcodeOf w = opcodeOf r.pattern := by
    intro r hr
    obtain ⟨hmem, hsel⟩ := List.mem_filter.1 hr
    exact opcodeOf_of_selects hmem hsel
  generalize (opcodeMap.filter fun r => r.selects w) = rows at hpair hsel ⊢
  rcases rows with _ | ⟨q, _ | ⟨r, rest⟩⟩
  · exact Nat.zero_le 1
  · exact le_rfl
  · have hop : opcodeOf q.pattern = opcodeOf r.pattern := (hsel q (by simp)).symm.trans (hsel r (by simp))
    exact absurd hop (List.rel_of_pairwise_cons hpair (by simp))

/-- A row fixes the opcode and, where the format has one, the reserved field to zero, so its words decode. -/
theorem decode_ok_of_selects (hr : r ∈ opcodeMap) (h : r.selects w = true) : ∃ i, decode w = .ok i := by
  have hop := opcodeOf_of_selects hr h
  simp only [opcodeMap, List.mem_cons, List.not_mem_nil, or_false] at hr
  rcases hr with rfl | rfl | rfl | rfl | rfl | rfl | rfl | rfl
  · exact ⟨_, (decode_opcode_01 hop).trans (ifReservedZero_of_eq_zero (wordField_of_selects h rfl) _)⟩
  · exact ⟨_, (decode_opcode_02 hop).trans (ifReservedZero_of_eq_zero (wordField_of_selects h rfl) _)⟩
  · exact ⟨_, (decode_opcode_03 hop).trans (ifReservedZero_of_eq_zero (wordField_of_selects h rfl) _)⟩
  · exact ⟨_, (decode_opcode_04 hop).trans (ifReservedZero_of_eq_zero (wordField_of_selects h rfl) _)⟩
  · exact ⟨_, (decode_opcode_10 hop).trans (ifReservedZero_of_eq_zero (wordField_of_selects h rfl) _)⟩
  · exact ⟨_, decode_opcode_11 hop⟩
  · exact ⟨_, decode_opcode_12 hop⟩
  · exact ⟨_, (decode_opcode_20 hop).trans (ifReservedZero_of_eq_zero (wordField_of_selects h rfl) _)⟩

theorem selects_of_decode_ok {i : Instr} (h : decode w = .ok i) :
    ∃ r ∈ opcodeMap, r.mnemonic = mnemonicOf i ∧ r.selects w = true := by
  obtain ⟨-, hw⟩ := encodeOfDecodeIsTheWord w i h
  exact hw ▸ encode_selects_own_row i

end

/-- Settles O36: a word that decodes is its command's word, whose row is in the map, and a row's words decode. -/
theorem decoderFollowsOpcodeMap : Obligations.DecoderFollowsOpcodeMap := by
  intro w
  refine ⟨selecting_rows_length_le_one w, fun i h => selects_of_decode_ok h, fun ⟨e, he⟩ r hr => ?_, fun hno => ?_⟩
  · by_contra hsel
    obtain ⟨i, hi⟩ := decode_ok_of_selects hr (Bool.eq_true_of_not_eq_false hsel)
    simp [he] at hi
  · cases hdec : decode w with
    | error e => exact ⟨e, rfl⟩
    | ok i =>
      obtain ⟨r, hr, -, hsel⟩ := selects_of_decode_ok hdec
      simp [hno r hr] at hsel

end Sys2Proof.Machine
end

section
/-! SUPPORT. What a buffer holds (10_state.md R31, R32): runs of bytes by their parts, the bytes just written, and the
first unwritten byte of a checksum's reads. -/

namespace Sys2Proof.Machine

/-! ## Runs of bytes -/

theorem Memory.holds_writeBytes (m : Memory) (i : Nat) (bytes : List Byte) : (m.writeBytes i bytes).holds i bytes :=
  ((Memory.readBytes_ok_iff _ i bytes.length bytes).1 (Memory.readBytes_writeBytes m i bytes)).2

theorem Memory.read_writeBytes_outside (m : Memory) {i j : Nat} {bytes : List Byte}
    (hj : j < i ∨ i + bytes.length ≤ j) : (m.writeBytes i bytes).read j = m.read j :=
  (Memory.read_writeBytes m i j bytes).trans (if_neg (by omega))

section
variable {m : Memory} {i : Nat} {bs cs : List Byte}

theorem Memory.holds_append_left (h : m.holds i (bs ++ cs)) : m.holds i bs := fun k hk => by
  rw [h k (by rw [List.length_append]; omega), List.getElem_append_left hk]

theorem Memory.holds_append_right (h : m.holds i (bs ++ cs)) : m.holds (i + bs.length) cs := fun k hk => by
  have hread := h (bs.length + k) (by rw [List.length_append]; omega)
  rw [← Nat.add_assoc] at hread
  rw [hread, List.getElem_append_right (Nat.le_add_right _ _)]
  simp

theorem Memory.read_of_holds_cons {v : Byte} (h : m.holds i (v :: bs)) : m.read i = some v := h 0 (by simp)

theorem Memory.holds_tail {v : Byte} (h : m.holds i (v :: bs)) : m.holds (i + 1) bs :=
  Memory.holds_append_right (bs := [v]) h

theorem Memory.readBytes_of_holds (h : m.holds i bs) : m.readBytes i bs.length = .ok bs :=
  (Memory.readBytes_ok_iff m i bs.length bs).2 ⟨rfl, h⟩

end

end Sys2Proof.Machine
end

section
/-! SUPPORT. Rules over all commands, from the five ways a command can go on (`exec_next_cases`): what no command
writes, who writes FB and the result registers (10_state.md R24 to R35), that OVERSIZE is never reported (R163), and
that every command keeps a state legal; with the proofs of the obligations on them. -/

namespace Sys2Proof.Machine

section
variable {i : Instr} {s t : State}

/-! ## What no command writes -/

/-- Settles O26: none of the five ways to go on sets one of these fields. -/
theorem commandsLeaveOperandStateUnchanged : Obligations.CommandsLeaveOperandStateUnchanged := by
  intro i s t h
  rcases exec_next_cases i s t h with ⟨c, r, -, rfl⟩ | ⟨k, rfl⟩ | ⟨p, v, k, r, -, rfl⟩ | ⟨frame, len, k, -, -, -, rfl⟩ |
    ⟨n, l, k, r, cmd, -, rfl⟩
  all_goals simp

/-! ## Who writes FB (R31, R130) and the result registers (R29, R33 to R35) -/

/-- The commands that build a frame (R130). -/
def IsEncoder (i : Instr) : Prop :=
  (∃ c l, i = .frmEncs c l) ∨ (∃ d c n, i = .frmEncbw d c n) ∨ ∃ d c n, i = .frmEncbr d c n

theorem not_isEncoder (hs : ∀ c l, i ≠ .frmEncs c l) (hbw : ∀ d c n, i ≠ .frmEncbw d c n)
    (hbr : ∀ d c n, i ≠ .frmEncbr d c n) : ¬ IsEncoder i := by
  rintro (⟨c, l, h⟩ | ⟨d, c, n, h⟩ | ⟨d, c, n, h⟩)
  · exact hs c l h
  · exact hbw d c n h
  · exact hbr d c n h

theorem exec_keeps_fb (hi : ¬ IsEncoder i) (h : exec i s = .next t) : t.fb = s.fb := by
  rcases exec_next_cases i s t h with ⟨c, r, -, rfl⟩ | ⟨k, rfl⟩ | ⟨p, v, k, r, -, rfl⟩ | ⟨frame, len, k, henc, -⟩ |
    ⟨n, l, k, r, cmd, -, rfl⟩
  case inr.inr.inr.inl => exact absurd henc hi
  all_goals simp

/-- A frame of at most 262 bytes fits FLEN. -/
theorem flen_toNat {len : Nat} (h : len ≤ 262) : (BitVec.ofNat 16 len).toNat = len :=
  (BitVec.toNat_ofNat len 16).trans (Nat.mod_eq_of_lt (by omega))

theorem exec_keeps_fb_from_flen (h : exec i s = .next t) {j : Nat} (hj : t.flen.toNat ≤ j) :
    t.fb.read j = s.fb.read j := by
  rcases exec_next_cases i s t h with ⟨c, r, -, rfl⟩ | ⟨k, rfl⟩ | ⟨p, v, k, r, -, rfl⟩ |
    ⟨frame, len, k, -, hlen, hle, rfl⟩ | ⟨n, l, k, r, cmd, -, rfl⟩
  case inr.inr.inr.inl =>
    have hout : len ≤ j := (flen_toNat hle).symm.trans_le hj
    exact s.fb.read_writeBytes_outside (.inr (by omega))
  all_goals simp

/-- Settles O27: FB changes only where a frame is written, which is below the new FLEN. -/
theorem onlyEncodersWriteFrameBuffer : Obligations.OnlyEncodersWriteFrameBuffer := fun _ _ _ h =>
  ⟨fun _ hj => exec_keeps_fb_from_flen h hj, fun hs hbw hbr => exec_keeps_fb (not_isEncoder hs hbw hbr) h⟩

theorem exec_keeps_rcmd_rplen (hdecs : ∀ n, i ≠ .frmDecs n) (h : exec i s = .next t) :
    t.rcmd = s.rcmd ∧ t.rplen = s.rplen := by
  rcases exec_next_cases i s t h with ⟨c, r, -, rfl⟩ | ⟨k, rfl⟩ | ⟨p, v, k, r, -, rfl⟩ | ⟨frame, len, k, -, -, -, rfl⟩ |
    ⟨n, l, k, r, cmd, hi, -⟩
  case inr.inr.inr.inr => exact absurd hi (hdecs n)
  all_goals simp

theorem exec_keeps_rcrc (hdecs : ∀ n, i ≠ .frmDecs n) (hverify : ∀ p v, i ≠ .crcVerify p v)
    (h : exec i s = .next t) : t.rcrc = s.rcrc := by
  rcases exec_next_cases i s t h with ⟨c, r, -, rfl⟩ | ⟨k, rfl⟩ | ⟨p, v, k, r, hi, -⟩ | ⟨frame, len, k, -, -, -, rfl⟩ |
    ⟨n, l, k, r, cmd, hi, -⟩
  case inr.inr.inl => exact absurd hi (hverify p v)
  case inr.inr.inr.inr => exact absurd hi (hdecs n)
  all_goals simp

theorem exec_keeps_flen (hdecs : ∀ n, i ≠ .frmDecs n) (henc : ¬ IsEncoder i) (h : exec i s = .next t) :
    t.flen = s.flen := by
  rcases exec_next_cases i s t h with ⟨c, r, -, rfl⟩ | ⟨k, rfl⟩ | ⟨p, v, k, r, -, rfl⟩ | ⟨frame, len, k, hi, -⟩ |
    ⟨n, l, k, r, cmd, hi, -⟩
  case inr.inr.inr.inl => exact absurd hi henc
  case inr.inr.inr.inr => exact absurd hi (hdecs n)
  all_goals simp

/-- Settles O28: each register's writers are the ways to go on that set it. -/
theorem resultRegistersHaveOnlyTheirWriters : Obligations.ResultRegistersHaveOnlyTheirWriters := fun _ _ _ h =>
  ⟨fun hdecs => exec_keeps_rcmd_rplen hdecs h, fun hdecs hverify => exec_keeps_rcrc hdecs hverify h,
    fun hdecs hs hbw hbr => exec_keeps_flen hdecs (not_isEncoder hs hbw hbr) h⟩

/-! ## STATUS after a command (R25, R163) -/

/-- A command that goes on leaves a STATUS word that R25 admits, and its reason is none, SHORT, START or END. -/
theorem exec_status_word (h : exec i s = .next t) :
    (∃ c r, (c = .range ∧ r = .none ∨ c = .malformed ∧ (r = .short ∨ r = .start ∨ r = .endMarker)) ∧
      t.status = statusWord c r false false) ∨
    ∃ d m, (m = true → d = true) ∧ t.status = statusWord .ok .none d m := by
  rcases exec_next_cases i s t h with ⟨c, r, hc, rfl⟩ | ⟨k, rfl⟩ | ⟨p, v, k, r, -, rfl⟩ |
    ⟨frame, len, k, -, -, -, rfl⟩ | ⟨n, l, k, r, cmd, -, rfl⟩
  · exact .inl ⟨c, r, hc, rfl⟩
  · exact .inr ⟨false, false, id, rfl⟩
  · exact .inr ⟨true, _, fun _ => rfl, rfl⟩
  · exact .inr ⟨false, false, id, rfl⟩
  · exact .inr ⟨true, _, fun _ => rfl, rfl⟩

/-- Settles O24: the reason is none or one of SHORT, START and END, and none of these is 3. -/
theorem oversizeIsNeverReported : Obligations.OversizeIsNeverReported := by
  intro i s t h
  rcases exec_status_word h with ⟨c, r, hc, ht⟩ | ⟨d, m, -, ht⟩
  · rw [ht, statusReason_statusWord]
    rcases hc with ⟨-, rfl⟩ | ⟨-, rfl | rfl | rfl⟩ <;> decide
  · rw [ht, statusReason_statusWord]
    decide

theorem exec_statusLegal (h : exec i s = .next t) : statusLegal t.status = true := by
  rcases exec_status_word h with ⟨c, r, hc, ht⟩ | ⟨d, m, hdm, ht⟩
  · rw [ht]
    rcases hc with ⟨rfl, rfl⟩ | ⟨rfl, rfl | rfl | rfl⟩ <;> decide
  · have hlegal : ∀ d m : Bool, (m = true → d = true) → statusLegal (statusWord .ok .none d m) = true := by decide
    rw [ht, hlegal d m hdm]

/-! ## Legal states (R25, R29, R31, R32) -/

theorem State.legal_iff (s : State) :
    s.legal = true ↔ s.fb.wf Config.fbSize = true ∧ s.pb.wf Config.pbSize = true ∧ statusLegal s.status = true ∧
      s.flen.toNat ≤ Config.fbSize := by
  simp [State.legal, and_assoc]

/-- Every command keeps FB in canonical form: a frame is at most 262 bytes. -/
theorem exec_fb_wf (h : exec i s = .next t) (hs : s.fb.wf Config.fbSize = true) : t.fb.wf Config.fbSize = true := by
  rcases exec_next_cases i s t h with ⟨c, r, -, rfl⟩ | ⟨k, rfl⟩ | ⟨p, v, k, r, -, rfl⟩ |
    ⟨frame, len, k, -, hlen, hle, rfl⟩ | ⟨n, l, k, r, cmd, -, rfl⟩
  case inr.inr.inr.inl => exact Memory.wf_writeBytes _ s.fb 0 frame hs (by simp only [Config.fbSize]; omega)
  all_goals simpa using hs

/-- Every command keeps FLEN in 0..280. -/
theorem exec_flen_le (h : exec i s = .next t) (hs : s.flen.toNat ≤ Config.fbSize) : t.flen.toNat ≤ Config.fbSize := by
  rcases exec_next_cases i s t h with ⟨c, r, -, rfl⟩ | ⟨k, rfl⟩ | ⟨p, v, k, r, -, rfl⟩ |
    ⟨frame, len, k, -, -, hle, rfl⟩ | ⟨n, l, k, r, cmd, -, rfl⟩
  case inr.inr.inr.inl => exact (flen_toNat hle).trans_le (hle.trans (by decide))
  case inr.inr.inr.inr =>
    exact (BitVec.toNat_ofNat _ 16).trans_le ((Nat.mod_le _ _).trans (impliedLength_le_fbSize l))
  all_goals simpa using hs

theorem exec_legal (h : exec i s = .next t) (hs : s.legal = true) : t.legal = true := by
  rw [State.legal_iff] at hs ⊢
  obtain ⟨hfb, hpb, -, hflen⟩ := hs
  obtain ⟨hpb', -⟩ := commandsLeaveOperandStateUnchanged i s t h
  exact ⟨exec_fb_wf h hfb, hpb' ▸ hpb, exec_statusLegal h, exec_flen_le h hflen⟩

end

end Sys2Proof.Machine
end

section
/-! SUPPORT. The step (20_memory.md R60, R61): what serving one input can do, said once, which fields it keeps, that it
keeps states legal, and the proofs of the obligations on the step, the fault mark, buffer loads, the host window and
reset. -/

namespace Sys2Proof.Machine

/-! ## What a step does -/

theorem step_of_no_inputs {s : State} (h : s.inputs = []) : step s = .next s := by
  rw [step, serveNext, h]

theorem step_of_inputs_cons {s : State} {x : Input} {rest : List Input} (h : s.inputs = x :: rest) :
    step s = serveInput x { s with inputs := rest } := by
  rw [step, serveNext, h]
  rfl

theorem hostWrite_cmd (w : Word) (s : State) :
    hostWrite 0x320#10 (.d32 w) s = issueCommand w { s with response := some .written } :=
  hostWrite_registerAddr .cmd w s

theorem issueCommand_of_decode_ok {w : Word} {i : Instr} (h : decode w = .ok i) (s : State) :
    issueCommand w s = exec i s := by
  rw [issueCommand, h]

theorem step_of_write {s : State} {a : PortAddr} {data : WriteData} {rest : List Input}
    (h : s.inputs = .write a data :: rest) : step s = hostWrite a data { s with inputs := rest } :=
  step_of_inputs_cons h

/-- Settles O42: the access at the head of the inputs is what `step` serves. -/
theorem stepServesTheHostAccess : Obligations.StepServesTheHostAccess :=
  ⟨fun _ _ _ _ h => step_of_inputs_cons h, fun _ _ _ _ h => step_of_write h⟩

/-- Settles O39: the CMD write is served, its word issued and decoded, one equation each. -/
theorem stepRunsTheDecodedCommand : Obligations.StepRunsTheDecodedCommand := fun s w i rest hs hw =>
  calc step s = hostWrite 0x320#10 (.d32 w) { s with inputs := rest } := step_of_write hs
    _ = issueCommand w { s with inputs := rest, response := some .written } := hostWrite_cmd w _
    _ = exec i { s with inputs := rest, response := some .written } := issueCommand_of_decode_ok hw _

theorem commandWord_toNat (w : Word) : commandWord 32 w.toNat = w := by
  rw [commandWord, Nat.mod_eq_of_lt w.isLt, BitVec.ofNat_toNat, BitVec.setWidth_eq]

/-- Settles O40: both placings put the CMD write of the command's word first, and the word decodes to the command. -/
theorem placedCommandRunsNext : Obligations.PlacedCommandRunsNext := by
  intro s i hwf
  have hrun : step { s with inputs := commandInput (encode i) :: s.inputs } =
      exec i { s with response := some .written } :=
    stepRunsTheDecodedCommand _ (encode i) i s.inputs rfl (decodeOfEncodeIsTheCommand i hwf)
  refine ⟨?_, hrun⟩
  rw [State.withFetchWord, commandWord_toNat]
  exact hrun

/-! ## What serving one input can change -/

/-- A register write that goes on set CTRL's or BADDR's field, or issued a command, or changed nothing. -/
theorem writeRegister_next {r : Register} {v : Word} {s t : State} (h : writeRegister r v s = .next t) :
    (∃ b, t = s.setAsplit b) ∨ (∃ a, t = s.setBaddr a) ∨ issueCommand v s = .next t ∨ t = s := by
  cases r with
  | ctrl => cases h; exact .inl ⟨_, rfl⟩
  | baddr => cases h; exact .inr (.inl ⟨_, rfl⟩)
  | cmd => exact .inr (.inr (.inl h))
  | _ => cases h; exact .inr (.inr (.inr rfl))

theorem portTarget_frame_lt {a : PortAddr} {i : Nat} (h : portTarget a = .frame i) : i < Config.fbSize := by
  rcases portTarget_cases a with ⟨hle, -, ht⟩ | ⟨-, -, -, ht⟩ | ⟨r, -, -, ht⟩ | ⟨-, ht⟩ <;>
    simp only [ht, reduceCtorEq, PortTarget.frame.injEq] at h
  exact h ▸ Nat.lt_succ_of_le hle

theorem portTarget_payload_lt {a : PortAddr} {i : Nat} (h : portTarget a = .payload i) : i < Config.pbSize := by
  rcases portTarget_cases a with ⟨-, -, ht⟩ | ⟨hlo, hhi, -, ht⟩ | ⟨r, -, -, ht⟩ | ⟨-, ht⟩ <;>
    simp only [ht, reduceCtorEq, PortTarget.payload.injEq] at h
  simp only [Config.pbSize]
  omega

/-- The ways a host access can go on, from the state in which it is served. -/
inductive AccessEffect (s : State) : State → Prop where
  | busError {t : State} (a : PortAddr) (h : raiseBusError a s = .next t) : AccessEffect s t
  | answer (r : Response) : AccessEffect s (respond r s)
  | frameByte (i : Nat) (v : Byte) (hi : i < Config.fbSize) :
      AccessEffect s (respond .written (s.setFb (s.fb.write i v)))
  | payloadByte (i : Nat) (v : Byte) (hi : i < Config.pbSize) :
      AccessEffect s (respond .written (s.setPb (s.pb.write i v)))
  | ctrl (b : Bool) : AccessEffect s ((respond .written s).setAsplit b)
  | baddr (a : Half) : AccessEffect s ((respond .written s).setBaddr a)
  | command {t : State} (w : Word) (h : issueCommand w (respond .written s) = .next t) : AccessEffect s t

theorem hostRead_effect {a : PortAddr} {width : Width} {s t : State} (h : hostRead a width s = .next t) :
    AccessEffect s t := by
  rcases hostRead_next a width s t h with ⟨r, rfl⟩ | h
  · exact .answer r
  · exact .busError a h

theorem hostWrite_effect {a : PortAddr} {data : WriteData} {s t : State} (h : hostWrite a data s = .next t) :
    AccessEffect s t := by
  rcases admitted_cases a data.width with hw | ⟨hw, i, hi⟩ | ⟨hw, i, hi⟩ | ⟨hw, r, hr⟩
  · rw [hostWrite_of_not_admitted hw] at h
    exact .busError a h
  · cases data <;> cases hw
    rw [hostWrite_frame hi] at h
    cases h
    exact .frameByte i _ (portTarget_frame_lt hi)
  · cases data <;> cases hw
    rw [hostWrite_payload hi] at h
    cases h
    exact .payloadByte i _ (portTarget_payload_lt hi)
  · cases data <;> cases hw
    rw [hostWrite_register hr] at h
    rcases writeRegister_next h with ⟨b, rfl⟩ | ⟨v, rfl⟩ | h | rfl
    · exact .ctrl b
    · exact .baddr v
    · exact .command _ h
    · exact .answer .written

/-- A step that goes on had nothing to do, or took the reset input, or served an access. -/
theorem step_next_cases {s t : State} (h : step s = .next t) :
    (s.inputs = [] ∧ t = s) ∨
    (∃ rest, s.inputs = .reset :: rest ∧ t = { State.reset with inputs := rest }) ∨
    ∃ x rest, s.inputs = x :: rest ∧ AccessEffect { s with inputs := rest } t := by
  cases hin : s.inputs with
  | nil =>
    rw [step_of_no_inputs hin] at h
    injection h with h
    exact .inl ⟨rfl, h.symm⟩
  | cons x rest =>
    rw [step_of_inputs_cons hin] at h
    cases x with
    | reset =>
      injection h with h
      exact .inr (.inl ⟨rest, rfl, h.symm⟩)
    | read a width => exact .inr (.inr ⟨_, rest, rfl, hostRead_effect h⟩)
    | write a data => exact .inr (.inr ⟨_, rest, rfl, hostWrite_effect h⟩)

/-! ## Fields of the model's own -/

/-- A command word leaves the inputs and the fault mark, legal or not. -/
theorem issueCommand_keeps_inputs_fault {w : Word} {s t : State} (h : issueCommand w s = .next t) :
    t.inputs = s.inputs ∧ t.fault = s.fault := by
  rcases issueCommand_next w s t h with rfl | ⟨i, -, h⟩
  · exact ⟨rfl, rfl⟩
  · obtain ⟨-, -, -, hfault, hinputs, -⟩ := commandsLeaveOperandStateUnchanged i s t h
    exact ⟨hinputs, hfault⟩

section
variable {s t : State}

theorem AccessEffect.keeps_inputs (h : AccessEffect s t) : t.inputs = s.inputs := by
  cases h with
  | busError a h =>
    rw [raiseBusError_eq] at h
    cases h
    rfl
  | command w h => exact (issueCommand_keeps_inputs_fault h).1
  | _ => rfl

theorem AccessEffect.fault_cases (h : AccessEffect s t) :
    t.fault = s.fault ∨ ∃ a, t.fault = some (s.fault.getD (.busError a)) ∧ t.response = some (.busError a) := by
  cases h with
  | busError a h =>
    rw [raiseBusError_eq] at h
    cases h
    exact .inr ⟨a, rfl, rfl⟩
  | command w h => exact .inl (issueCommand_keeps_inputs_fault h).2
  | _ => exact .inl rfl

/-- An access keeps a fault mark that is set. -/
theorem AccessEffect.keeps_fault (h : AccessEffect s t) (hs : s.fault ≠ none) : t.fault = s.fault := by
  rcases h.fault_cases with h | ⟨a, h, -⟩
  · exact h
  · obtain ⟨r, hr⟩ := Option.ne_none_iff_exists'.1 hs
    rw [h, hr, Option.getD_some]

/-- An access that sets a clear fault mark answered a BusError of the address the mark names. -/
theorem AccessEffect.sets_fault (h : AccessEffect s t) (hs : s.fault = none) (ht : t.fault ≠ none) :
    ∃ a, t.fault = some (.busError a) ∧ t.response = some (.busError a) := by
  rcases h.fault_cases with h | ⟨a, h, hr⟩
  · exact absurd (h.trans hs) ht
  · exact ⟨a, by rw [h, hs, Option.getD_none], hr⟩

end

/-- Settles O41: no effect of an access or of the reset input touches the inputs still to come. -/
theorem stepServesInputsInOrder : Obligations.StepServesInputsInOrder := by
  refine ⟨fun s t x rest hs h => ?_, fun s hs => step_of_no_inputs hs⟩
  rcases step_next_cases h with ⟨hnil, -⟩ | ⟨rest', hs', rfl⟩ | ⟨y, rest', hs', heff⟩
  · exact absurd (hs.symm.trans hnil) (List.cons_ne_nil x rest)
  · exact (List.cons.inj (hs'.symm.trans hs)).2
  · exact heff.keeps_inputs.trans (List.cons.inj (hs'.symm.trans hs)).2

/-- Settles O47: the one effect that touches the mark is a BusError's, and only the reset input clears it. -/
theorem faultMarkIsStickyAndComesFromBusError : Obligations.FaultMarkIsStickyAndComesFromBusError := by
  constructor
  · intro s t h hreset hs
    rcases step_next_cases h with ⟨-, rfl⟩ | ⟨rest, hin, -⟩ | ⟨x, rest, -, heff⟩
    · rfl
    · exact absurd (by rw [hin]; rfl) hreset
    · exact heff.keeps_fault hs
  · intro s t h hs ht
    rcases step_next_cases h with ⟨-, rfl⟩ | ⟨rest, -, rfl⟩ | ⟨x, rest, -, heff⟩
    · exact absurd hs ht
    · exact absurd rfl ht
    · exact heff.sets_fault hs ht

/-! ## Legal states (R25, R29, R31, R32) -/

theorem issueCommand_legal {w : Word} {s t : State} (h : issueCommand w s = .next t) (hs : s.legal = true) :
    t.legal = true := by
  rcases issueCommand_next w s t h with rfl | ⟨i, -, h⟩
  · rw [State.legal_iff] at hs ⊢
    obtain ⟨hfb, hpb, -, hflen⟩ := hs
    have hillegal : statusLegal (statusWord .illegal .none false false) = true := by decide
    exact ⟨hfb, hpb, hillegal, hflen⟩
  · exact exec_legal h hs

theorem AccessEffect.legal {s t : State} (h : AccessEffect s t) (hs : s.legal = true) : t.legal = true := by
  have hlegal := hs
  rw [State.legal_iff] at hs
  obtain ⟨hfb, hpb, hstatus, hflen⟩ := hs
  cases h with
  | busError a h =>
    rw [raiseBusError_eq] at h
    cases h
    exact hlegal
  | frameByte i v hi => exact (State.legal_iff _).2 ⟨Memory.wf_write _ s.fb i v hfb hi, hpb, hstatus, hflen⟩
  | payloadByte i v hi => exact (State.legal_iff _).2 ⟨hfb, Memory.wf_write _ s.pb i v hpb hi, hstatus, hflen⟩
  | command w h => exact issueCommand_legal h hlegal
  | _ => exact hlegal

/-- Settles O51, by evaluation of the reset state. -/
theorem resetStateIsLegal : Obligations.ResetStateIsLegal := ⟨rfl, rfl⟩

/-- Settles O52: the reset input leaves the reset state's fields, and each effect of an access keeps what `State.legal`
asks. -/
theorem stepKeepsStatesLegal : Obligations.StepKeepsStatesLegal := by
  intro s t hs h
  rcases step_next_cases h with ⟨-, rfl⟩ | ⟨rest, -, rfl⟩ | ⟨x, rest, -, heff⟩
  · exact hs
  · obtain ⟨hreset, -⟩ := resetStateIsLegal
    exact hreset
  · exact heff.legal hs

/-- Settles O50: reset's fields by definition, and the reset input as `step` serves it. -/
theorem resetLeavesTheResetValues : Obligations.ResetLeavesTheResetValues :=
  ⟨fun _ => ⟨rfl, rfl⟩, rfl, rfl, rfl, rfl, rfl, rfl, rfl, rfl, rfl, fun _ _ h => step_of_inputs_cons h⟩

/-! ## Buffer loads (R93) -/

/-- The two buffers as the host port reaches them. -/
inductive BufferWindow where
  | frame
  | payload

/-- The port address of a buffer's byte 0 (R52). -/
def BufferWindow.base : BufferWindow → Nat
  | .frame => 0
  | .payload => pbBase

/-- A buffer's size in bytes (R31, R32). -/
def BufferWindow.size : BufferWindow → Nat
  | .frame => Config.fbSize
  | .payload => Config.pbSize

/-- The buffer of a state. -/
def BufferWindow.get : BufferWindow → State → Memory
  | .frame, s => s.fb
  | .payload, s => s.pb

/-- The state with the buffer replaced. -/
def BufferWindow.set : BufferWindow → State → Memory → State
  | .frame, s, m => s.setFb m
  | .payload, s, m => s.setPb m

theorem BufferWindow.portAddr_toNat (b : BufferWindow) {i : Nat} (hi : i < b.size) :
    (BitVec.ofNat 10 (b.base + i)).toNat = b.base + i := by
  refine (BitVec.toNat_ofNat _ 10).trans (Nat.mod_eq_of_lt ?_)
  cases b <;> simp only [base, size, pbBase, Config.fbSize, Config.pbSize] at * <;> omega

/-- An 8-bit write inside a buffer's window writes that byte. -/
theorem hostWrite_buffer (b : BufferWindow) {i : Nat} (hi : i < b.size) (v : Byte) (s : State) :
    hostWrite (BitVec.ofNat 10 (b.base + i)) (.d8 v) s = .next (respond .written (b.set s ((b.get s).write i v))) := by
  have haddr := b.portAddr_toNat hi
  cases b with
  | frame =>
    have hi : i < 280 := hi
    have haddr : (BitVec.ofNat 10 (0 + i)).toNat = 0 + i := haddr
    have htarget : portTarget (BitVec.ofNat 10 (0 + i)) = .frame i := by
      rw [portTarget_frame (by omega), haddr, Nat.zero_add]
    exact hostWrite_frame htarget v s
  | payload =>
    have hi : i < 255 := hi
    have haddr : (BitVec.ofNat 10 (0x200 + i)).toNat = 0x200 + i := haddr
    have htarget : portTarget (BitVec.ofNat 10 (0x200 + i)) = .payload i := by
      rw [portTarget_payload (by omega) (by omega), haddr, Nat.add_sub_cancel_left]
    exact hostWrite_payload htarget v s

theorem run_succ_of_step {M : Host.Core} {s t : M.State} (h : M.step s = .next t) (k : Nat) :
    M.run (k + 1) s = M.run k t := by
  rw [Host.Core.run, h]

/-- Running a buffer's load writes its bytes one after the other and consumes its accesses. -/
theorem run_loadBytes (b : BufferWindow) (s : State) (i : Nat) (bytes : List Byte) (rest : List Input)
    (hfit : i + bytes.length ≤ b.size) :
    ∃ r, Host.Core.run core bytes.length { s with inputs := loadBytes (b.base + i) bytes ++ rest } =
      .next { b.set s ((b.get s).writeBytes i bytes) with inputs := rest, response := r } := by
  induction bytes generalizing s i with
  | nil => exact ⟨s.response, by cases b <;> rfl⟩
  | cons v bytes ih =>
    rw [List.length_cons] at hfit
    have hstep : core.step { s with inputs := loadBytes (b.base + i) (v :: bytes) ++ rest } =
        .next { respond .written (b.set s ((b.get s).write i v)) with
          inputs := loadBytes (b.base + (i + 1)) bytes ++ rest } :=
      calc step { s with inputs := loadBytes (b.base + i) (v :: bytes) ++ rest }
          = hostWrite (BitVec.ofNat 10 (b.base + i)) (.d8 v)
              { s with inputs := loadBytes (b.base + (i + 1)) bytes ++ rest } := step_of_write rfl
        _ = _ := hostWrite_buffer b (by omega) v _
        _ = _ := by cases b <;> rfl
    obtain ⟨r, hrun⟩ := ih (respond .written (b.set s ((b.get s).write i v))) (i + 1) (by omega)
    refine ⟨r, (run_succ_of_step hstep _).trans (hrun.trans ?_)⟩
    cases b <;> rfl

/-- Settles O48, both clauses by `run_loadBytes`. -/
theorem bufferLoadsFillTheBuffer : Obligations.BufferLoadsFillTheBuffer := by
  constructor
  · intro s i bytes rest hfit
    obtain ⟨r, hrun⟩ := run_loadBytes .payload s i bytes rest hfit
    exact ⟨_, hrun, rfl, s.pb.holds_writeBytes i bytes, fun j => s.pb.read_writeBytes_outside⟩
  · intro s i bytes rest hfit
    obtain ⟨r, hrun⟩ := run_loadBytes .frame s i bytes rest hfit
    rw [show BufferWindow.frame.base + i = i from Nat.zero_add i] at hrun
    exact ⟨_, hrun, rfl, s.fb.holds_writeBytes i bytes, fun j => s.fb.read_writeBytes_outside⟩

/-! ## The host window (R67) -/

theorem portAddressOf_eq_some_iff (h : Nat) (a : PortAddr) : portAddressOf h = some a ↔ h = hostAddress a := by
  unfold portAddressOf hostAddress
  have ha : a.toNat < 1024 := a.isLt
  constructor
  · intro hsome
    split at hsome
    · next hwindow =>
      have hval : (h - Config.tmfcBase) % 1024 = a.toNat := by
        rw [← Option.some.inj hsome]
        exact (BitVec.toNat_ofNat _ 10).symm
      omega
    · cases hsome
  · rintro rfl
    rw [if_pos (by omega), Nat.add_sub_cancel_left, BitVec.ofNat_toNat, BitVec.setWidth_eq]

/-- Settles O49: `portAddressOf` answers the port address whose host address it is given. -/
theorem hostWindowIsOneToOne : Obligations.HostWindowIsOneToOne :=
  ⟨fun a => (portAddressOf_eq_some_iff _ a).2 rfl, fun h a => (portAddressOf_eq_some_iff h a).1⟩

end Sys2Proof.Machine
end

section
/-! SUPPORT. The checksum (40_crc.md): its step as a bijection (R108), the block-address split's aliasing
(41_frame_encode.md R131), what the CRC commands answer when their bytes are written (R103 to R107), and the proofs of
the obligations on them. -/

namespace Sys2Proof.Machine

/-! ## The step is a bijection (R101, R108) -/

/-- The round shifts a zero into bit 15, and the tap's bit 15 is set. -/
theorem crcRound_bit_15 (c : Half) : (crcRound c).getLsbD 15 = c.getLsbD 0 := by
  have hshift : (c >>> 1).getLsbD 15 = false := (BitVec.getLsbD_ushiftRight c 1 15).trans (c.getLsbD_of_ge 16 le_rfl)
  unfold crcRound
  split
  · next h => rw [BitVec.getLsbD_xor, hshift, h]; rfl
  · next h => rw [hshift, Bool.eq_false_of_not_eq_true h]

/-- Bit 15 of a round tells the tested bit, and with it whether the tap was added to the other bits. -/
theorem crcRound_injective : Function.Injective crcRound := by
  intro c d h
  have hbit : c.getLsbD 0 = d.getLsbD 0 := by rw [← crcRound_bit_15, ← crcRound_bit_15, h]
  have hshift : c >>> 1 = d >>> 1 := by
    unfold crcRound at h
    rw [hbit] at h
    split at h
    · exact (BitVec.xor_left_inj _).1 h
    · exact h
  refine BitVec.eq_of_getLsbD_eq fun i _ => ?_
  cases i with
  | zero => exact hbit
  | succ i =>
    have hi : (c >>> 1).getLsbD i = (d >>> 1).getLsbD i := by rw [hshift]
    rwa [BitVec.getLsbD_ushiftRight, BitVec.getLsbD_ushiftRight, Nat.add_comm] at hi

theorem crcStep_injective (b : Byte) : Function.Injective fun c : Half => crcStep c b := by
  intro c d h
  have hrounds : crcRound^[8] (c ^^^ b.setWidth 16) = crcRound^[8] (d ^^^ b.setWidth 16) := by
    rw [← crcRoundsFrom_eq_iterate, ← crcRoundsFrom_eq_iterate]
    exact h
  exact (BitVec.xor_left_inj _).1 (crcRound_injective.iterate 8 hrounds)

/-- Settles O2: an injective function on the finite set of states is bijective. -/
theorem crcStepIsBijectiveForEachByte : Obligations.CrcStepIsBijectiveForEachByte :=
  ⟨crcRound_bit_15, fun b => Finite.injective_iff_bijective.1 (crcStep_injective b)⟩

/-! ## The block-address split loses bit 8 at most (R131) -/

theorem extractLsb'_eq_iff {w : Nat} (a b : BitVec w) (lo len : Nat) :
    a.extractLsb' lo len = b.extractLsb' lo len ↔ ∀ i, lo ≤ i → i < lo + len → a.getLsbD i = b.getLsbD i := by
  constructor
  · intro h i hlo hhi
    have hbit : (a.extractLsb' lo len).getLsbD (i - lo) = (b.extractLsb' lo len).getLsbD (i - lo) := by rw [h]
    simpa [BitVec.getLsbD_extractLsb', show i - lo < len by omega, Nat.add_sub_cancel' hlo] using hbit
  · intro h
    refine BitVec.eq_of_getLsbD_eq fun j hj => ?_
    rw [BitVec.getLsbD_extractLsb', BitVec.getLsbD_extractLsb', h (lo + j) (by omega) (by omega)]

/-- The literal split's two bytes are all bits of the address but bit 8. -/
theorem literal_split_eq_iff (a b : Half) :
    (addressHigh a false = addressHigh b false ∧ addressLow a = addressLow b) ↔
      ∀ i, i < 16 → i ≠ 8 → a.getLsbD i = b.getLsbD i := by
  have hhigh : ∀ x : Half, addressHigh x false = x.extractLsb' 9 8 := fun x => ofNat_div_two_pow x 9 8
  have hlow : ∀ x : Half, addressLow x = x.extractLsb' 0 8 := fun _ => rfl
  rw [hhigh, hhigh, hlow, hlow, extractLsb'_eq_iff, extractLsb'_eq_iff]
  constructor
  · rintro ⟨hh, hl⟩ i hi h8
    rcases Nat.lt_or_gt_of_ne h8 with hlt | hgt
    · exact hl i (Nat.zero_le i) (by omega)
    · exact hh i hgt (by omega)
  · intro h
    refine ⟨fun i hlo _ => ?_, fun i _ hhi => h i (by omega) (by omega)⟩
    by_cases hi : i < 16
    · exact h i hi (by omega)
    · rw [a.getLsbD_of_ge i (by omega), b.getLsbD_of_ge i (by omega)]

theorem getLsbD_xor_bit_8 (a : Half) (i : Nat) : (a ^^^ 0x100#16).getLsbD i = (a.getLsbD i ^^ decide (8 = i)) := by
  rw [BitVec.getLsbD_xor, show 0x100#16 = BitVec.twoPow 16 8 from rfl, BitVec.getLsbD_twoPow]
  rfl

/-- Two addresses agree off bit 8 exactly when they are one address or differ in bit 8 alone. -/
theorem eq_off_bit_8_iff (a b : Half) :
    (∀ i, i < 16 → i ≠ 8 → a.getLsbD i = b.getLsbD i) ↔ b = a ∨ b = a ^^^ 0x100#16 := by
  constructor
  · intro h
    by_cases h8 : a.getLsbD 8 = b.getLsbD 8
    · refine .inl (BitVec.eq_of_getLsbD_eq fun i hi => ?_)
      by_cases hi8 : i = 8
      · rw [hi8, h8]
      · exact (h i hi hi8).symm
    · refine .inr (BitVec.eq_of_getLsbD_eq fun i hi => ?_)
      rw [getLsbD_xor_bit_8]
      by_cases hi8 : i = 8
      · rw [hi8, decide_eq_true rfl, Bool.xor_true, Bool.eq_not]
        exact Ne.symm h8
      · rw [decide_eq_false (Ne.symm hi8), Bool.xor_false, h i hi hi8]
  · rintro (rfl | rfl) i _ h8
    · rfl
    · rw [getLsbD_xor_bit_8, decide_eq_false (Ne.symm h8), Bool.xor_false]

theorem joinBytes_hi8_lo8 (k : Half) : joinBytes (hi8 k) (lo8 k) = k := by
  obtain ⟨-, -, hjoin, -⟩ := checksumBytesReassemble
  exact hjoin k

/-- Settles O6: the literal split keeps every bit but bit 8, and the conventional one is the address's two bytes. -/
theorem literalSplitLosesBitEightAlone : Obligations.LiteralSplitLosesBitEightAlone := by
  refine ⟨fun a b => (literal_split_eq_iff a b).trans (eq_off_bit_8_iff a b), fun a => ?_⟩
  rw [addressHigh_conventional]
  exact joinBytes_hi8_lo8 a

/-! ## The CRC commands -/

/-- Settles O7, by definition of the command. -/
theorem crcInitResetsAccumulator : Obligations.CrcInitResetsAccumulator := fun _ => rfl

/-- Settles O8, by definition of the command. -/
theorem crcByteAdvancesAccumulator : Obligations.CrcByteAdvancesAccumulator := fun _ _ => rfl

/-- Settles O10: an empty range is answered before the bounds check. -/
theorem crcRangeEmptyGivesInitialState : Obligations.CrcRangeEmptyGivesInitialState := fun _ _ _ h => if_pos h

/-- Settles O9: both guards of the range pass and its bytes are read. -/
theorem crcRangeComputesChecksum : Obligations.CrcRangeComputesChecksum := by
  intro s first last bytes hle hlast hlen hfb
  have hcrc : crcOfRange s.fb first last = .ok (crcOfBytes bytes) := crcOfRange_of_holds (by omega) hfb
  have hexec : execCrcRange first last s = completeCommand false false (s.setCrc (crcOfBytes bytes)) := by
    rw [execCrcRange, if_neg hle.not_gt, if_neg hlast.not_ge, hcrc, withFrame_ok]
  exact hexec

/-- CRC.BYTE of each byte in turn folds the step over them (R104). -/
theorem execAll_crcBytes (bytes : List Byte) (k : Half) (s : State) :
    execAll (bytes.map .crcByte) { s with crc := k, status := 0#32 } =
      .next { s with crc := bytes.foldl crcStep k, status := 0#32 } := by
  induction bytes generalizing k with
  | nil => rfl
  | cons b bytes ih => exact ih (crcStep k b)

/-- Settles O13: both orders of work end with the step folded over the bytes from 0xFFFF. -/
theorem incrementalAndRangeChecksumsAgree : Obligations.IncrementalAndRangeChecksumsAgree := by
  intro s first last bytes hle hlast hlen hfb
  exact ⟨_, execAll_crcBytes bytes 0xFFFF#16 s, crcRangeComputesChecksum s first last bytes hle hlast hlen hfb,
    crcOfRange_of_holds (by omega) hfb⟩

/-- The report of a comparison, as the registers it writes. -/
theorem reportChecksums_eq (k r : Half) (s : State) :
    reportChecksums k r s =
      .next { s with crc := k, rcrc := r, status := if k = r then 0x300#32 else 0x100#32 } := by
  rw [reportChecksums]
  by_cases h : k = r <;> simp only [h, decide_true, decide_false, if_true, if_false] <;> rfl

/-- Where a variant's domain starts, as R106 gives it. -/
theorem domainStart_eq (v : Variant) : domainStart v = if v = .block then 0 else 1 := by
  cases v <;> rfl

/-- CRC.VERIFY on written bytes reports the domain's checksum and the received one. -/
theorem execCrcVerify_of_holds {s : State} {p : Nat} {v : Variant} {domain : List Byte} {lo hi : Byte} (hp1 : 1 ≤ p)
    (hp : p < 280) (hlen : domain.length = p - 1 - domainStart v) (hfb : s.fb.holds (domainStart v) domain)
    (hlo : s.fb.read (p - 1) = some lo) (hhi : s.fb.read p = some hi) :
    execCrcVerify p v s = reportChecksums (crcOfBytes domain) (joinBytes hi lo) s := by
  have hcount : rangeCount (domainStart v) ((p : Int) - 2) = domain.length := by
    unfold rangeCount
    omega
  have hcrc : crcOfRange s.fb (domainStart v) ((p : Int) - 2) = .ok (crcOfBytes domain) :=
    crcOfRange_ok _ _ _ _ (hcount ▸ Memory.readBytes_of_holds hfb)
  have hreceived : receivedChecksum s.fb p = .ok (joinBytes hi lo) :=
    (receivedChecksum_ok_iff s.fb p _).2 ⟨lo, hi, hlo, hhi, rfl⟩
  rw [execCrcVerify, if_neg (by simp only [Config.fbSize]; omega), hcrc, withFrame_ok, hreceived, withFrame_ok]

/-- Settles O11: the report of the two checksums, as the registers it writes. -/
theorem crcVerifyComparesChecksums : Obligations.CrcVerifyComparesChecksums := by
  intro s p v domain lo hi hp1 hp hlen hfb hlo hhi
  rw [← domainStart_eq] at hlen hfb
  exact (execCrcVerify_of_holds hp1 hp hlen hfb hlo hhi).trans (reportChecksums_eq _ _ s)

end Sys2Proof.Machine
end

section
/-! SUPPORT. The frame encoders (41_frame_encode.md R130 to R134): what each answers on a written payload, the frame
that stands in FB afterwards, that CRC.VERIFY accepts it (40_crc.md R110), and the proofs of the obligations on them. -/

namespace Sys2Proof.Machine

/-! ## The frame an encoder writes -/

/-- An encode command's frame write: FB holds the frame from index 0 and is as before beyond it, and besides FB only
FLEN, CRC and STATUS are written. -/
theorem emitFrame_builds (frame : List Byte) {len : Nat} (hlen : frame.length = len) (k : Half) (s : State) :
    ∃ t, emitFrame frame len k s = .next t ∧
      t = { s with fb := t.fb, flen := BitVec.ofNat 16 len, crc := k, status := 0#32 } ∧ t.crc = k ∧
      t.fb.holds 0 frame ∧ ∀ j, len ≤ j → t.fb.read j = s.fb.read j :=
  ⟨_, rfl, rfl, rfl, s.fb.holds_writeBytes 0 frame, fun _ _ => s.fb.read_writeBytes_outside (.inr (by omega))⟩

theorem simpleFrame_eq (c l : Byte) (payload : List Byte) :
    simpleFrame c l payload = [0x55#8, c, l] ++ payload ++
      [lo8 (crcOfBytes (simpleDomain c l payload)), hi8 (crcOfBytes (simpleDomain c l payload)), 0xAA#8] := by
  simp [simpleFrame, simpleDomain, checksumBytes]

section
variable {s : State} {d c l n : Byte} {payload : List Byte}

theorem execFrmEncs_of_payload (hlen : payload.length = l.toNat) (hpb : s.pb.holds 0 payload) :
    execFrmEncs c l s =
      emitFrame (simpleFrame c l payload) (l.toNat + 6) (crcOfBytes (simpleDomain c l payload)) s := by
  rw [execFrmEncs, ← hlen, Memory.readBytes_of_holds hpb, withPayload_ok]

theorem execFrmEncbw_of_payload (hlen : payload.length = n.toNat) (hpb : s.pb.holds 0 payload) :
    execFrmEncbw d c n s =
      emitFrame (blockFrame (blockHeader d c n s ++ payload)) (n.toNat + 7)
        (crcOfBytes (blockHeader d c n s ++ payload)) s := by
  rw [execFrmEncbw, ← hlen, Memory.readBytes_of_holds hpb, withPayload_ok]

end

/-- Settles O14: the payload is read and the Simple Frame around it written. -/
theorem frmEncsBuildsSimpleFrame : Obligations.FrmEncsBuildsSimpleFrame := by
  intro s c l payload hlen hpb
  obtain ⟨t, hexec, ht, hcrc, hfb, hout⟩ := emitFrame_builds (simpleFrame c l payload) (len := l.toNat + 6)
    (by rw [simpleFrame_length, hlen]) (crcOfBytes (simpleDomain c l payload)) s
  refine ⟨t, (execFrmEncs_of_payload hlen hpb).trans hexec, ht, ?_, hout⟩
  rw [simpleFrame_eq] at hfb
  rw [hcrc]
  exact hfb

/-- Settles O15: the payload is read and the Block Frame around it written. -/
theorem frmEncbwBuildsBlockWriteFrame : Obligations.FrmEncbwBuildsBlockWriteFrame := by
  intro s d c n payload hlen hpb
  obtain ⟨t, hexec, ht, hcrc, hfb, hout⟩ :=
    emitFrame_builds (blockFrame (blockHeader d c n s ++ payload)) (len := n.toNat + 7)
      (by rw [blockFrame_length, List.length_append, hlen, blockHeader_length]; omega)
      (crcOfBytes (blockHeader d c n s ++ payload)) s
  refine ⟨t, (execFrmEncbw_of_payload hlen hpb).trans hexec, ht, ?_, hout⟩
  rw [hcrc]
  exact hfb

/-- Settles O16: the Block Frame of the header alone is written. -/
theorem frmEncbrBuildsBlockReadFrame : Obligations.FrmEncbrBuildsBlockReadFrame := by
  intro s d c n
  obtain ⟨t, hexec, ht, hcrc, hfb, hout⟩ := emitFrame_builds (blockFrame (blockHeader d c n s))
    (blockFrame_length _) (crcOfBytes (blockHeader d c n s)) s
  refine ⟨t, hexec, ht, ?_, hout⟩
  rw [hcrc]
  exact hfb

/-! ## The frame as it stands in FB -/

/-- FB holds a Simple Frame whose checksum is CRC's, and FLEN is its length. -/
def HoldsSimpleFrame (c l : Byte) (payload : List Byte) (t : State) : Prop :=
  payload.length = l.toNat ∧ t.fb.holds 0 (simpleFrame c l payload) ∧ t.crc = crcOfBytes (simpleDomain c l payload) ∧
    t.flen = BitVec.ofNat 16 (l.toNat + 6)

/-- FB holds a Block Frame of a checksum domain whose checksum is CRC's, and FLEN is its length. -/
def HoldsBlockFrame (domain : List Byte) (t : State) : Prop :=
  t.fb.holds 0 (blockFrame domain) ∧ t.crc = crcOfBytes domain ∧ t.flen = BitVec.ofNat 16 (domain.length + 2)

section
variable {s t : State} {d c l n : Byte}

theorem exec_frmEncs_holds (h : exec (.frmEncs c l) s = .next t) : ∃ payload, HoldsSimpleFrame c l payload t := by
  obtain ⟨payload, -, hlen, rfl⟩ := execFrmEncs_next c l s t h
  exact ⟨payload, hlen, s.fb.holds_writeBytes 0 _, rfl, rfl⟩

theorem exec_frmEncbw_holds (h : exec (.frmEncbw d c n) s = .next t) :
    ∃ domain, domain.length = n.toNat + 5 ∧ HoldsBlockFrame domain t := by
  obtain ⟨payload, -, hlen, rfl⟩ := execFrmEncbw_next d c n s t h
  have hdomain : (blockHeader d c n s ++ payload).length = n.toNat + 5 := by
    rw [List.length_append, hlen, blockHeader_length, Nat.add_comm]
  generalize blockHeader d c n s ++ payload = domain at hdomain ⊢
  refine ⟨domain, hdomain, s.fb.holds_writeBytes 0 _, rfl, ?_⟩
  rw [hdomain]
  rfl

theorem exec_frmEncbr_holds (h : exec (.frmEncbr d c n) s = .next t) :
    ∃ domain, domain.length = 5 ∧ HoldsBlockFrame domain t := by
  have ht := execFrmEncbr_next d c n s t h
  subst ht
  exact ⟨blockHeader d c n s, rfl, s.fb.holds_writeBytes 0 _, rfl, rfl⟩

/-- A Simple Frame's domain and checksum stand in FB from index 1. -/
theorem HoldsSimpleFrame.holds_domain {payload : List Byte} (h : HoldsSimpleFrame c l payload t) :
    t.fb.holds 1 (simpleDomain c l payload ++ checksumBytes (crcOfBytes (simpleDomain c l payload))) := by
  obtain ⟨-, hfb, -, -⟩ := h
  have htail := Memory.holds_tail hfb
  rw [← List.append_assoc] at htail
  exact Memory.holds_append_left htail

theorem simpleDomain_length (c l : Byte) (payload : List Byte) :
    (simpleDomain c l payload).length = payload.length + 2 := rfl

theorem HoldsBlockFrame.crcOfRange_eq {domain : List Byte} (h : HoldsBlockFrame domain t) {e : Int}
    (he : (domain.length : Int) = e + 1) : crcOfRange t.fb 0 e = .ok t.crc := by
  obtain ⟨hfb, hcrc, -⟩ := h
  rw [hcrc]
  exact crcOfRange_of_holds (by omega) (Memory.holds_append_left hfb)

end

/-- Settles O18: the domain stands in FB inside the frame. -/
theorem appendedChecksumIsOfTheDomainInFrameBuffer : Obligations.AppendedChecksumIsOfTheDomainInFrameBuffer := by
  refine ⟨fun s t c l h => ?_, fun s t d c n h => ?_, fun s t d c n h => ?_⟩
  · obtain ⟨payload, hframe⟩ := exec_frmEncs_holds h
    have hdomain := hframe.holds_domain
    obtain ⟨hlen, -, hcrc, -⟩ := hframe
    rw [hcrc]
    exact crcOfRange_of_holds (by rw [simpleDomain_length]; omega) (Memory.holds_append_left hdomain)
  · obtain ⟨domain, hlen, hframe⟩ := exec_frmEncbw_holds h
    exact hframe.crcOfRange_eq (by omega)
  · obtain ⟨domain, hlen, hframe⟩ := exec_frmEncbr_holds h
    exact hframe.crcOfRange_eq (by omega)

/-! ## CRC.VERIFY of an encoded frame (R110) -/

/-- CRC.VERIFY just behind a domain that is followed by its own checksum reports a match. -/
theorem exec_crcVerify_match {t : State} {v : Variant} {domain : List Byte} {p : Nat}
    (hfb : t.fb.holds (domainStart v) (domain ++ checksumBytes (crcOfBytes domain)))
    (hp : p = domainStart v + domain.length + 1) (hlt : p < 280) :
    exec (.crcVerify p v) t =
      .next { t with crc := crcOfBytes domain, rcrc := crcOfBytes domain, status := 0x300#32 } := by
  have hck := Memory.holds_append_right hfb
  have hlo := Memory.read_of_holds_cons hck
  have hhi := Memory.read_of_holds_cons (Memory.holds_tail hck)
  have hverify := execCrcVerify_of_holds (p := p) (by omega) hlt (by omega) (Memory.holds_append_left hfb)
    (by rw [hp]; exact hlo) (by rw [hp]; exact hhi)
  rw [joinBytes_hi8_lo8, reportChecksums_eq, if_pos rfl] at hverify
  exact hverify

theorem HoldsBlockFrame.verifies {domain : List Byte} {t : State} (h : HoldsBlockFrame domain t)
    (hle : domain.length ≤ 260) :
    exec (.crcVerify (t.flen.toNat - 1) .block) t = .next { t with rcrc := t.crc, status := 0x300#32 } := by
  obtain ⟨hfb, hcrc, hflen⟩ := h
  have hp : t.flen.toNat = domain.length + 2 := hflen ▸ flen_toNat (by omega)
  have hstart : domainStart .block = 0 := rfl
  rw [exec_crcVerify_match hfb (by omega) (by omega), ← hcrc]

/-- Settles O19: in FB each domain is followed by its own checksum. -/
theorem encodedFramesVerify : Obligations.EncodedFramesVerify := by
  refine ⟨fun s t c l h => ?_, fun s t d c n h => ?_⟩
  · obtain ⟨payload, hframe⟩ := exec_frmEncs_holds h
    have hdomain := hframe.holds_domain
    obtain ⟨hlen, -, hcrc, -⟩ := hframe
    have hl := l.isLt
    have hstart : domainStart .simple = 1 := rfl
    rw [exec_crcVerify_match (v := .simple) hdomain (by rw [simpleDomain_length]; omega) (by omega), ← hcrc]
  · have hn := n.isLt
    rcases h with h | h
    · obtain ⟨domain, hlen, hframe⟩ := exec_frmEncbw_holds h
      exact hframe.verifies (by omega)
    · obtain ⟨domain, hlen, hframe⟩ := exec_frmEncbr_holds h
      exact hframe.verifies (by omega)

end Sys2Proof.Machine
end

section
/-! SUPPORT. The frame decoder (42_frame_decode.md R160 to R166): what FRM.DECS answers on a well-formed frame, at each
failing check and at each unwritten byte its checks reach, where the commands that read FB or PB stop (20_memory.md R69,
R183), and the proofs of the obligations on them. -/

namespace Sys2Proof.Machine

/-! ## The first unwritten byte of a checksum's reads -/

section
variable {m : Memory} {s0 k : Nat} {e : Int}

theorem crcOfRange_error_of_first_unwritten (hlo : s0 ≤ k) (hhi : (k : Int) ≤ e) (hk : m.read k = none)
    (hfirst : ∀ j, s0 ≤ j → j < k → m.read j ≠ none) : crcOfRange m s0 e = .error k := by
  refine (crcOfRange_error_iff m s0 e k).2 ((Memory.readBytes_error_iff m s0 _ k).2 ⟨hlo, ?_, hk, hfirst⟩)
  unfold rangeCount
  omega

theorem crcOfRange_ok_of_written (h : ∀ j : Nat, s0 ≤ j → (j : Int) ≤ e → m.read j ≠ none) :
    ∃ c, crcOfRange m s0 e = .ok c := by
  cases hcrc : crcOfRange m s0 e with
  | ok c => exact ⟨c, rfl⟩
  | error j =>
    obtain ⟨hlo, hhi, hj, -⟩ := (Memory.readBytes_error_iff m s0 _ j).1 ((crcOfRange_error_iff m s0 e j).1 hcrc)
    exact absurd hj (h j hlo (le_of_lt_add_rangeCount hlo hhi))

/-- A checksum's domain up to p - 2 and the received checksum at p - 1 and p, read one after the other, stop at their
first unwritten byte (log entry 7). -/
theorem checksumReads_fault {p : Nat} (hp : 1 ≤ p) (hlo : min (p - 1) s0 ≤ k) (hhi : k ≤ p) (hk : m.read k = none)
    (hfirst : ∀ j, min (p - 1) s0 ≤ j → j < k → m.read j ≠ none) (cont : Half → Half → Outcome) :
    withFrame (crcOfRange m s0 ((p : Int) - 2)) (fun computed =>
      withFrame (receivedChecksum m p) fun received => cont computed received) = .fault (.unwrittenFrame k) := by
  by_cases hdomain : k + 2 ≤ p
  · rw [crcOfRange_error_of_first_unwritten (by omega) (by omega) hk fun j hj => hfirst j (by omega), withFrame_error]
  · obtain ⟨c, hc⟩ : ∃ c, crcOfRange m s0 ((p : Int) - 2) = .ok c :=
      crcOfRange_ok_of_written fun j hj hje => hfirst j (by omega) (by omega)
    have hreceived : receivedChecksum m p = .error k := by
      rw [receivedChecksum_error_iff]
      by_cases hlow : k = p - 1
      · exact .inl ⟨hlow ▸ hk, hlow⟩
      · have hhigh : k = p := by omega
        exact .inr ⟨hfirst (p - 1) (by omega) (by omega), hhigh ▸ hk, hhigh⟩
    rw [hc, withFrame_ok, hreceived, withFrame_error]

end

theorem execCrcRange_of_unwritten {s : State} {first last k : Nat} (hlast : last < 280) (hlo : first ≤ k)
    (hhi : k ≤ last) (hk : s.fb.read k = none) (hfirst : ∀ j, first ≤ j → j < k → s.fb.read j ≠ none) :
    execCrcRange first last s = .fault (.unwrittenFrame k) := by
  rw [execCrcRange, if_neg (hlo.trans hhi).not_gt, if_neg hlast.not_ge,
    crcOfRange_error_of_first_unwritten hlo (by omega) hk hfirst, withFrame_error]

theorem readBytes_of_first_unwritten {m : Memory} {count k : Nat} (hlt : k < count) (hk : m.read k = none)
    (hfirst : ∀ j, j < k → m.read j ≠ none) : m.readBytes 0 count = .error k :=
  (Memory.readBytes_error_iff m 0 count k).2 ⟨Nat.zero_le k, by omega, hk, fun j _ => hfirst j⟩

/-- Settles O32: each command's reads end at its first unwritten byte. -/
theorem unwrittenByteStopsCommand : Obligations.UnwrittenByteStopsCommand := by
  refine ⟨fun s first last k hlast hlo hhi hk hfirst => execCrcRange_of_unwritten hlast hlo hhi hk hfirst,
    fun s p v k hp1 hp hlo hhi hk hfirst => ?_, fun s c l k hlt hk hfirst => ?_, fun s d c n k hlt hk hfirst => ?_⟩
  · rw [← domainStart_eq] at hlo hfirst
    have hpos : ¬ (p = 0 ∨ Config.fbSize ≤ p) := by simp only [Config.fbSize]; omega
    exact (if_neg hpos).trans (checksumReads_fault hp1 hlo hhi hk hfirst _)
  · rw [exec, execFrmEncs, readBytes_of_first_unwritten hlt hk hfirst, withPayload_error]
  · rw [exec, execFrmEncbw, readBytes_of_first_unwritten hlt hk hfirst, withPayload_error]

/-! ## FRM.DECS, check by check (R160 to R162) -/

section
variable {s : State} {n : Nat} {l : Byte}

theorem execFrmDecs_of_short (h : n < 6) : execFrmDecs n s = failCommand .malformed .short s := by
  rw [execFrmDecs, if_neg (by simp only [Config.fbSize]; omega), checkFrame, if_pos h]

/-- With a received count of 6 to 280 the first check reads FB[0]. -/
theorem execFrmDecs_of_start {b : Byte} (h6 : 6 ≤ n) (hn : n ≤ 280) (h0 : s.fb.read 0 = some b) (hb : b ≠ 0x55#8) :
    execFrmDecs n s = failCommand .malformed .start s := by
  rw [execFrmDecs, if_neg hn.not_gt, checkFrame, if_neg h6.not_gt, readByte_of_read h0, withFrame_ok, if_pos hb]

theorem execFrmDecs_of_unwritten_start (h6 : 6 ≤ n) (hn : n ≤ 280) (h0 : s.fb.read 0 = none) :
    execFrmDecs n s = .fault (.unwrittenFrame 0) := by
  rw [execFrmDecs, if_neg hn.not_gt, checkFrame, if_neg h6.not_gt, readByte_of_unwritten h0, withFrame_error]

theorem execFrmDecs_of_unwritten_length (h6 : 6 ≤ n) (hn : n ≤ 280) (h0 : s.fb.read 0 = some 0x55#8)
    (h2 : s.fb.read 2 = none) : execFrmDecs n s = .fault (.unwrittenFrame 2) := by
  rw [execFrmDecs, if_neg hn.not_gt, checkFrame, if_neg h6.not_gt, readByte_of_read h0, withFrame_ok,
    if_neg (not_not.2 rfl), readByte_of_unwritten h2, withFrame_error]

theorem execFrmDecs_of_long (h6 : 6 ≤ n) (hn : n ≤ 280) (h0 : s.fb.read 0 = some 0x55#8)
    (h2 : s.fb.read 2 = some l) (hF : n < l.toNat + 6) : execFrmDecs n s = failCommand .malformed .short s := by
  rw [execFrmDecs, if_neg hn.not_gt, checkFrame, if_neg h6.not_gt, readByte_of_read h0, withFrame_ok,
    if_neg (not_not.2 rfl), readByte_of_read h2, withFrame_ok, if_neg (impliedLength_le_fbSize l).not_gt,
    if_pos (show n < impliedLength l from hF)]

/-- Past the length check the end marker is read, and an accepted frame goes on to its results. -/
theorem execFrmDecs_of_length_ok (h0 : s.fb.read 0 = some 0x55#8) (h2 : s.fb.read 2 = some l) (hF : l.toNat + 6 ≤ n)
    (hn : n ≤ 280) :
    execFrmDecs n s = withFrame (s.fb.readByte (l.toNat + 5)) fun last =>
      if last ≠ Config.endMarker then failCommand .malformed .endMarker s
      else acceptFrame (impliedLength l) l s := by
  rw [execFrmDecs_eq_checkMarkers h2 hF hn, checkMarkers, readByte_of_read h0, withFrame_ok, if_neg (not_not.2 rfl)]
  rfl

theorem execFrmDecs_of_bad_end {b : Byte} (h0 : s.fb.read 0 = some 0x55#8) (h2 : s.fb.read 2 = some l)
    (hF : l.toNat + 6 ≤ n) (hn : n ≤ 280) (hend : s.fb.read (l.toNat + 5) = some b) (hb : b ≠ 0xAA#8) :
    execFrmDecs n s = failCommand .malformed .endMarker s := by
  rw [execFrmDecs_of_length_ok h0 h2 hF hn, readByte_of_read hend, withFrame_ok, if_pos hb]

theorem execFrmDecs_of_unwritten_end (h0 : s.fb.read 0 = some 0x55#8) (h2 : s.fb.read 2 = some l)
    (hF : l.toNat + 6 ≤ n) (hn : n ≤ 280) (hend : s.fb.read (l.toNat + 5) = none) :
    execFrmDecs n s = .fault (.unwrittenFrame (l.toNat + 5)) := by
  rw [execFrmDecs_of_length_ok h0 h2 hF hn, readByte_of_unwritten hend, withFrame_error]

/-- With both markers in place FRM.DECS goes on to the frame's results. -/
theorem execFrmDecs_of_markers (h0 : s.fb.read 0 = some 0x55#8) (h2 : s.fb.read 2 = some l)
    (hF : l.toNat + 6 ≤ n) (hn : n ≤ 280) (hend : s.fb.read (l.toNat + 5) = some 0xAA#8) :
    execFrmDecs n s = acceptFrame (impliedLength l) l s := by
  rw [execFrmDecs_of_length_ok h0 h2 hF hn, readByte_of_read hend, withFrame_ok, if_neg (not_not.2 rfl)]

/-- An accepted frame's checksum reads stop at the first unwritten byte of FB[1..F-2]. -/
theorem acceptFrame_of_unwritten {k : Nat} (hlo : 1 ≤ k) (hhi : k ≤ l.toNat + 4) (hk : s.fb.read k = none)
    (hfirst : ∀ j, 1 ≤ j → j < k → s.fb.read j ≠ none) :
    acceptFrame (impliedLength l) l s = .fault (.unwrittenFrame k) := by
  have hdomain : (impliedLength l : Int) - 4 = ((l.toNat + 4 : Nat) : Int) - 2 := by
    unfold impliedLength
    omega
  rw [acceptFrame, hdomain]
  exact checksumReads_fault (by omega) (by omega) hhi hk (fun j hj => hfirst j (by omega)) _

/-- The results of an accepted frame whose bytes are all written. -/
theorem acceptFrame_of_holds {c lo hi : Byte} {payload : List Byte} (hlen : payload.length = l.toNat)
    (hfb : s.fb.holds 1 (simpleDomain c l payload ++ [lo, hi])) :
    acceptFrame (impliedLength l) l s =
      reportChecksums (crcOfBytes (simpleDomain c l payload)) (joinBytes hi lo)
        (((s.setFlen (BitVec.ofNat 16 (impliedLength l))).setRcmd c).setRplen l) := by
  have hck := Memory.holds_append_right hfb
  rw [simpleDomain_length, hlen] at hck
  have hdomain : crcOfRange s.fb 1 ((impliedLength l : Int) - 4) = .ok (crcOfBytes (simpleDomain c l payload)) := by
    refine crcOfRange_of_holds ?_ (Memory.holds_append_left hfb)
    rw [simpleDomain_length, impliedLength]
    omega
  have hreceived : receivedChecksum s.fb (impliedLength l - 2) = .ok (joinBytes hi lo) := by
    have hp : impliedLength l - 2 = 1 + (l.toNat + 2) + 1 := by unfold impliedLength; omega
    rw [hp]
    exact (receivedChecksum_ok_iff s.fb _ _).2
      ⟨lo, hi, Memory.read_of_holds_cons hck, Memory.read_of_holds_cons (Memory.holds_tail hck), rfl⟩
  have hcmd : s.fb.readByte 1 = .ok c := readByte_of_read (Memory.read_of_holds_cons hfb)
  rw [acceptFrame, hdomain, withFrame_ok, hreceived, withFrame_ok, hcmd, withFrame_ok]

/-- FRM.DECS on a well-formed Simple Frame whose bytes are all written. -/
theorem execFrmDecs_of_frame {c lo hi : Byte} {payload : List Byte} (hlen : payload.length = l.toNat)
    (hF : l.toNat + 6 ≤ n) (hn : n ≤ 280) (hfb : s.fb.holds 0 ([0x55#8, c, l] ++ payload ++ [lo, hi, 0xAA#8])) :
    execFrmDecs n s =
      reportChecksums (crcOfBytes (simpleDomain c l payload)) (joinBytes hi lo)
        (((s.setFlen (BitVec.ofNat 16 (impliedLength l))).setRcmd c).setRplen l) := by
  have hframe : [0x55#8, c, l] ++ payload ++ [lo, hi, 0xAA#8] =
      0x55#8 :: ((simpleDomain c l payload ++ [lo, hi]) ++ [0xAA#8]) := by simp [simpleDomain]
  rw [hframe] at hfb
  have htail := Memory.holds_tail hfb
  have h2 : s.fb.read 2 = some l := Memory.read_of_holds_cons (Memory.holds_tail htail)
  have hend : s.fb.read (l.toNat + 5) = some 0xAA#8 := by
    have hlast := Memory.read_of_holds_cons (Memory.holds_append_right htail)
    rwa [List.length_append, simpleDomain_length, hlen, Nat.add_comm] at hlast
  rw [execFrmDecs_of_markers (Memory.read_of_holds_cons hfb) h2 hF hn hend]
  exact acceptFrame_of_holds hlen (Memory.holds_append_left htail)

end

/-- Settles O21, check by check. -/
theorem frmDecsNamesFirstFailingCheck : Obligations.FrmDecsNamesFirstFailingCheck :=
  ⟨fun _ _ h => execFrmDecs_of_short h, fun _ _ _ h6 hn h0 hb => execFrmDecs_of_start h6 hn h0 hb,
    fun _ _ _ h6 hn h0 h2 hF => execFrmDecs_of_long h6 hn h0 h2 hF,
    fun _ _ _ _ hn h0 h2 hF he hend => execFrmDecs_of_bad_end h0 h2 hF hn he hend⟩

/-- Settles O33, check by check, and after the checks by the accepted frame's reads. -/
theorem unwrittenByteStopsDecoder : Obligations.UnwrittenByteStopsDecoder :=
  ⟨fun _ _ h6 hn h0 => execFrmDecs_of_unwritten_start h6 hn h0,
    fun _ _ h6 hn h0 h2 => execFrmDecs_of_unwritten_length h6 hn h0 h2,
    fun _ _ _ hF hn h0 h2 hend => execFrmDecs_of_unwritten_end h0 h2 hF hn hend,
    fun _ _ _ _ hF hn h0 h2 hend hlo hhi hk hfirst =>
      (execFrmDecs_of_markers h0 h2 hF hn hend).trans (acceptFrame_of_unwritten hlo hhi hk hfirst)⟩

/-- Settles O20: the report of an accepted frame, as the registers it writes. -/
theorem frmDecsReportsAcceptedFrame : Obligations.FrmDecsReportsAcceptedFrame :=
  fun _ _ _ _ _ _ _ hlen hF hn hfb => (execFrmDecs_of_frame hlen hF hn hfb).trans (reportChecksums_eq _ _ _)

/-- Settles O22: the frame in FB is well formed, its received checksum is CRC's, and FLEN is already its length. -/
theorem decodingAnEncodedFrameRoundTrips : Obligations.DecodingAnEncodedFrameRoundTrips := by
  intro s t c l h
  have hl := l.isLt
  obtain ⟨payload, hlen, hfb, hcrc, hflen⟩ := exec_frmEncs_holds h
  rw [simpleFrame_eq, ← hcrc] at hfb
  have hdecs := execFrmDecs_of_frame hlen le_rfl (by omega) hfb
  have hlength : t.setFlen (BitVec.ofNat 16 (impliedLength l)) = t := congrArg t.setFlen hflen.symm
  rw [← hcrc, joinBytes_hi8_lo8, hlength, reportChecksums_eq, if_pos rfl] at hdecs
  exact hdecs

end Sys2Proof.Machine
end

section
/-! SUPPORT. What commands read (10_state.md R38, 20_memory.md R68, R69): a command stops only at an unwritten byte it
reads, two states that agree on a command's inputs give the same results, and the proofs of the obligations on both. -/

namespace Sys2Proof.Machine

/-! ## Where a command can stop (R69, R183) -/

/-- The outcome is no refusal, and if it is a fault it names an unwritten byte of the state's buffers. -/
def StopsAtUnwritten (s : State) (o : Outcome) : Prop :=
  (∀ r, o = .fault r →
    (∃ k, r = .unwrittenFrame k ∧ k < 280 ∧ s.fb.read k = none) ∨
    (∃ k, r = .unwrittenPayload k ∧ k < 255 ∧ s.pb.read k = none)) ∧
  ∀ r, o ≠ .refused r

section
variable {s : State} {α : Type}

theorem StopsAtUnwritten.next (s t : State) : StopsAtUnwritten s (.next t) := ⟨nofun, nofun⟩

theorem StopsAtUnwritten.withFrame {r : Except Nat α} {cont : α → Outcome}
    (herr : ∀ k, r = .error k → k < 280 ∧ s.fb.read k = none) (hcont : ∀ v, StopsAtUnwritten s (cont v)) :
    StopsAtUnwritten s (withFrame r cont) := by
  cases r with
  | ok v => exact hcont v
  | error k =>
    refine ⟨fun f hf => ?_, nofun⟩
    cases hf
    exact .inl ⟨k, rfl, herr k rfl⟩

theorem StopsAtUnwritten.withPayload {r : Except Nat α} {cont : α → Outcome}
    (herr : ∀ k, r = .error k → k < 255 ∧ s.pb.read k = none) (hcont : ∀ v, StopsAtUnwritten s (cont v)) :
    StopsAtUnwritten s (withPayload r cont) := by
  cases r with
  | ok v => exact hcont v
  | error k =>
    refine ⟨fun f hf => ?_, nofun⟩
    cases hf
    exact .inr ⟨k, rfl, herr k rfl⟩

theorem StopsAtUnwritten.ite {c : Prop} [Decidable c] {o o' : Outcome} (h : c → StopsAtUnwritten s o)
    (h' : ¬ c → StopsAtUnwritten s o') : StopsAtUnwritten s (if c then o else o') := by
  split
  · next hc => exact h hc
  · next hc => exact h' hc

end

section
variable {m : Memory} {k : Nat}

theorem crcOfRange_error_unwritten {s0 : Nat} {e : Int} (h : crcOfRange m s0 e = .error k) (he : e < 280) :
    k < 280 ∧ m.read k = none := by
  obtain ⟨hlo, hhi, hk, -⟩ := (Memory.readBytes_error_iff m s0 _ k).1 ((crcOfRange_error_iff m s0 e k).1 h)
  have hle := le_of_lt_add_rangeCount hlo hhi
  exact ⟨by omega, hk⟩

theorem receivedChecksum_error_unwritten {p : Nat} (h : receivedChecksum m p = .error k) (hp : p < 280) :
    k < 280 ∧ m.read k = none := by
  rcases (receivedChecksum_error_iff m p k).1 h with ⟨hk, rfl⟩ | ⟨-, hk, rfl⟩
  · exact ⟨by omega, hk⟩
  · exact ⟨hp, hk⟩

theorem readByte_error_unwritten {i : Nat} (h : m.readByte i = .error k) (hi : i < 280) :
    k < 280 ∧ m.read k = none := by
  obtain ⟨hk, rfl⟩ := (Memory.readByte_error_iff m i k).1 h
  exact ⟨hi, hk⟩

theorem readBytes_payload_error_unwritten {l : Byte} (h : m.readBytes 0 l.toNat = .error k) :
    k < 255 ∧ m.read k = none := by
  obtain ⟨-, hlt, hk, -⟩ := (Memory.readBytes_error_iff m 0 _ k).1 h
  have hl := l.isLt
  exact ⟨by omega, hk⟩

end

theorem execCrcRange_stops (first last : Nat) (s : State) : StopsAtUnwritten s (execCrcRange first last s) :=
  .ite (fun _ => .next s _) fun _ => .ite (fun _ => .next s _) fun hlast =>
    .withFrame (fun _ h => crcOfRange_error_unwritten h (by simp only [Config.fbSize] at hlast; omega)) fun _ =>
      .next s _

theorem execCrcVerify_stops (p : Nat) (v : Variant) (s : State) : StopsAtUnwritten s (execCrcVerify p v s) := by
  refine .ite (fun _ => .next s _) fun hp => ?_
  have hlt : p < 280 := by simp only [Config.fbSize] at hp; omega
  exact .withFrame (fun _ h => crcOfRange_error_unwritten h (by omega)) fun _ =>
    .withFrame (fun _ h => receivedChecksum_error_unwritten h hlt) fun _ => .next s _

theorem acceptFrame_stops (l : Byte) (s : State) : StopsAtUnwritten s (acceptFrame (impliedLength l) l s) := by
  have hF : impliedLength l ≤ 280 := impliedLength_le_fbSize l
  exact .withFrame (fun _ h => crcOfRange_error_unwritten h (by omega)) fun _ =>
    .withFrame (fun _ h => receivedChecksum_error_unwritten h (by omega)) fun _ =>
      .withFrame (fun _ h => readByte_error_unwritten h (by omega)) fun _ => .next s _

theorem execFrmDecs_stops (n : Nat) (s : State) : StopsAtUnwritten s (execFrmDecs n s) := by
  refine .ite (fun _ => .next s _) fun _ => .ite (fun _ => .next s _) fun _ =>
    .withFrame (fun _ h => readByte_error_unwritten h (by omega)) fun _ => .ite (fun _ => .next s _) fun _ =>
      .withFrame (fun _ h => readByte_error_unwritten h (by omega)) fun l => .ite (fun _ => .next s _) fun hF =>
        .ite (fun _ => .next s _) fun _ => .withFrame (fun _ h => readByte_error_unwritten h ?_) fun _ =>
          .ite (fun _ => .next s _) fun _ => acceptFrame_stops l s
  have hF : impliedLength l ≤ 280 := impliedLength_le_fbSize l
  omega

/-- Settles O31: every read of a command is inside its buffer, so an index it stops at is unwritten there. -/
theorem commandsFaultOnlyAtUnwrittenBytes : Obligations.CommandsFaultOnlyAtUnwrittenBytes := by
  intro i s
  change StopsAtUnwritten s (exec i s)
  cases i with
  | crcInit => exact .next s _
  | crcByte a => exact .next s _
  | crcRange first last => exact execCrcRange_stops first last s
  | crcVerify p v => exact execCrcVerify_stops p v s
  | frmEncs c l => exact .withPayload (fun _ h => readBytes_payload_error_unwritten h) fun _ => .next s _
  | frmEncbw d c n => exact .withPayload (fun _ h => readBytes_payload_error_unwritten h) fun _ => .next s _
  | frmEncbr d c n => exact .next s _
  | frmDecs n => exact execFrmDecs_stops n s

/-! ## Equal inputs give equal results (R37, R38, R68) -/

/-- Two outcomes that both go on, to related states, or both stop for the same reason. -/
def OutcomesAgree (R : State → State → Prop) : Outcome → Outcome → Prop
  | .next t, .next t' => R t t'
  | .fault r, .fault r' => r = r'
  | .refused r, .refused r' => r = r'
  | _, _ => False

section
variable {R : State → State → Prop} {α : Type}

theorem OutcomesAgree.withFrame (r : Except Nat α) {cont cont' : α → Outcome}
    (h : ∀ v, OutcomesAgree R (cont v) (cont' v)) : OutcomesAgree R (withFrame r cont) (withFrame r cont') := by
  cases r with
  | ok v => exact h v
  | error k => exact rfl

theorem OutcomesAgree.withPayload (r : Except Nat α) {cont cont' : α → Outcome}
    (h : ∀ v, OutcomesAgree R (cont v) (cont' v)) : OutcomesAgree R (withPayload r cont) (withPayload r cont') := by
  cases r with
  | ok v => exact h v
  | error k => exact rfl

theorem OutcomesAgree.ite {c : Prop} [Decidable c] {o o' q q' : Outcome} (h : OutcomesAgree R o q)
    (h' : OutcomesAgree R o' q') : OutcomesAgree R (if c then o else o') (if c then q else q') := by
  split
  · exact h
  · exact h'

end

/-- Two states with the same results of a command: every register it writes, where it writes it. -/
structure SameResults (i : Instr) (t t' : State) : Prop where
  status : t'.status = t.status
  fb : t'.fb = t.fb
  crc : statusErr t.status = 0#4 → t'.crc = t.crc
  rcrc : statusCkdone t.status = true → t'.rcrc = t.rcrc
  encoded : IsEncoder i → t'.flen = t.flen
  decoded : ∀ n, i = .frmDecs n → statusErr t.status = 0#4 → t'.flen = t.flen ∧ t'.rcmd = t.rcmd ∧ t'.rplen = t.rplen

section
variable {i : Instr} {s u : State}

theorem failCommand_agree (hfb : s.fb = u.fb) (hi : ¬ IsEncoder i) {c : ErrorCode} (hc : c ≠ .ok) (r : Reason) :
    OutcomesAgree (SameResults i) (failCommand c r s) (failCommand c r u) := by
  have herr : statusErr (statusWord c r false false) ≠ 0#4 := by
    rw [statusErr_statusWord, ne_eq, errorBits_eq_zero_iff]
    exact hc
  exact ⟨rfl, hfb.symm, fun h => absurd h herr, fun h => by simp at h, fun h => absurd h hi,
    fun _ _ h => absurd h herr⟩

/-- The accumulator's commands agree when they set it to one value. -/
theorem setCrc_agree (hfb : s.fb = u.fb) (hi : ¬ IsEncoder i) (hdecs : ∀ n, i ≠ .frmDecs n) (k : Half) :
    OutcomesAgree (SameResults i) (completeCommand false false (s.setCrc k))
      (completeCommand false false (u.setCrc k)) :=
  ⟨rfl, hfb.symm, fun _ => rfl, fun h => by simp at h, fun h => absurd h hi, fun n h => absurd h (hdecs n)⟩

theorem emitFrame_agree (hfb : s.fb = u.fb) (hdecs : ∀ n, i ≠ .frmDecs n) (frame : List Byte) (len : Nat) (k : Half) :
    OutcomesAgree (SameResults i) (emitFrame frame len k s) (emitFrame frame len k u) :=
  ⟨rfl, by simp [hfb], fun _ => rfl, fun h => by simp at h, fun _ => rfl, fun n h => absurd h (hdecs n)⟩

theorem reportChecksums_agree {t t' : State} (hfb : t.fb = t'.fb) (hi : ¬ IsEncoder i)
    (hdecs : ∀ n, i = .frmDecs n → t'.flen = t.flen ∧ t'.rcmd = t.rcmd ∧ t'.rplen = t.rplen) (k r : Half) :
    OutcomesAgree (SameResults i) (reportChecksums k r t) (reportChecksums k r t') :=
  ⟨rfl, hfb.symm, fun _ => rfl, fun _ => rfl, fun h => absurd h hi, fun n h _ => hdecs n h⟩

end

section
variable {s u : State} (hfb : s.fb = u.fb)
include hfb

theorem execCrcRange_agree (first last : Nat) :
    OutcomesAgree (SameResults (.crcRange first last)) (execCrcRange first last s) (execCrcRange first last u) := by
  have hi : ¬ IsEncoder (.crcRange first last) := not_isEncoder nofun nofun nofun
  unfold execCrcRange
  rw [hfb]
  exact .ite (setCrc_agree hfb hi nofun _) (.ite (failCommand_agree hfb hi (by decide) .none)
    (.withFrame _ fun k => setCrc_agree hfb hi nofun k))

theorem execCrcVerify_agree (p : Nat) (v : Variant) :
    OutcomesAgree (SameResults (.crcVerify p v)) (execCrcVerify p v s) (execCrcVerify p v u) := by
  have hi : ¬ IsEncoder (.crcVerify p v) := not_isEncoder nofun nofun nofun
  unfold execCrcVerify
  rw [hfb]
  exact .ite (failCommand_agree hfb hi (by decide) .none)
    (.withFrame _ fun k => .withFrame _ fun r => reportChecksums_agree hfb hi nofun k r)

theorem acceptFrame_agree (n f : Nat) (l : Byte) :
    OutcomesAgree (SameResults (.frmDecs n)) (acceptFrame f l s) (acceptFrame f l u) := by
  have hi : ¬ IsEncoder (.frmDecs n) := not_isEncoder nofun nofun nofun
  unfold acceptFrame
  rw [hfb]
  refine .withFrame _ fun k => .withFrame _ fun r => .withFrame _ fun cmd => reportChecksums_agree ?_ hi ?_ k r
  · exact hfb
  · exact fun _ _ => ⟨rfl, rfl, rfl⟩

theorem execFrmDecs_agree (n : Nat) :
    OutcomesAgree (SameResults (.frmDecs n)) (execFrmDecs n s) (execFrmDecs n u) := by
  have hi : ¬ IsEncoder (.frmDecs n) := not_isEncoder nofun nofun nofun
  have hfail : ∀ r, OutcomesAgree (SameResults (.frmDecs n)) (failCommand .malformed r s)
      (failCommand .malformed r u) :=
    failCommand_agree hfb hi (by decide)
  unfold execFrmDecs checkFrame
  rw [hfb]
  exact .ite (failCommand_agree hfb hi (by decide) .none) (.ite (hfail _) (.withFrame _ fun _ => .ite (hfail _)
    (.withFrame _ fun l => .ite (hfail _) (.ite (hfail _) (.withFrame _ fun _ => .ite (hfail _)
      (acceptFrame_agree hfb n _ l))))))

/-- Two states that agree on what a command reads give the same results. -/
theorem exec_agree (i : Instr) (hpb : s.pb = u.pb) (hasplit : s.asplit = u.asplit) (hbaddr : s.baddr = u.baddr)
    (hcrc : ∀ a, i = .crcByte a → s.crc = u.crc) : OutcomesAgree (SameResults i) (exec i s) (exec i u) := by
  have hheader : ∀ d c n, blockHeader d c n s = blockHeader d c n u := fun d c n => by
    rw [blockHeader, hasplit, hbaddr, blockHeader]
  cases i with
  | crcInit => exact setCrc_agree hfb (not_isEncoder (by nofun) (by nofun) (by nofun)) (by nofun) _
  | crcByte a =>
    simp only [exec, execCrcByte, hcrc a rfl]
    exact setCrc_agree hfb (not_isEncoder (by nofun) (by nofun) (by nofun)) (by nofun) _
  | crcRange first last => exact execCrcRange_agree hfb first last
  | crcVerify p v => exact execCrcVerify_agree hfb p v
  | frmEncs c l =>
    simp only [exec, execFrmEncs, hpb]
    exact .withPayload _ fun _ => emitFrame_agree hfb (by nofun) _ _ _
  | frmEncbw d c n =>
    simp only [exec, execFrmEncbw, hpb, hheader]
    exact .withPayload _ fun _ => emitFrame_agree hfb (by nofun) _ _ _
  | frmEncbr d c n =>
    simp only [exec, execFrmEncbr, hheader]
    exact emitFrame_agree hfb (by nofun) _ _ _
  | frmDecs n => exact execFrmDecs_agree hfb n

end

theorem OutcomesAgree.of_next {R : State → State → Prop} {o o' : Outcome} (h : OutcomesAgree R o o') {t : State}
    (ho : o = .next t) : ∃ t', o' = .next t' ∧ R t t' := by
  subst ho
  cases o' with
  | next t' => exact ⟨t', rfl, h⟩
  | fault r => exact h.elim
  | refused r => exact h.elim

theorem OutcomesAgree.of_fault {R : State → State → Prop} {o o' : Outcome} (h : OutcomesAgree R o o') {r : Fault}
    (ho : o = .fault r) : o' = .fault r := by
  subst ho
  cases o' with
  | next t' => exact h.elim
  | fault r' => exact congrArg _ (Eq.symm h)
  | refused r' => exact h.elim

/-- Settles O30: the two outcomes agree in what the command writes. -/
theorem commandsReadOnlyTheirInputs : Obligations.CommandsReadOnlyTheirInputs := by
  intro i s u hfb hpb hasplit hbaddr hcrc
  have hagree := exec_agree hfb i hpb hasplit hbaddr hcrc
  refine ⟨fun t ht => ?_, fun r hr => hagree.of_fault hr⟩
  obtain ⟨t', ht', hsame⟩ := hagree.of_next ht
  exact ⟨t', ht', hsame.status, hsame.fb, hsame.crc, hsame.rcrc, hsame.encoded, hsame.decoded⟩

end Sys2Proof.Machine
end
